-- ==== Sys2Proof/Word.lean ====
section
/-! DEFINITION. The word types of the KV7 and their plainest arithmetic. -/
namespace Sys2Proof

/-- A byte of any space. -/
abbrev Byte := BitVec 8

/-- An instruction word (R34). -/
abbrev IWord := BitVec 32

/-- A 64-bit register value or address. -/
abbrev Reg := BitVec 64

/-- The image of a tile register or queue entry: 4,096 bytes, byte i in bits 8i + 7 to 8i (R177). -/
abbrev Image := BitVec 32768

/-- A lane mask: bit i belongs to element i (R178). -/
abbrev Lanes := BitVec 4096

/-- One accumulator row: 128 FP32 elements, element n in bits 32n + 31 to 32n (R205). -/
abbrev AccRow := BitVec 4096

/-- ceil(a ÷ b) of the manual's formulas. -/
def ceilDiv (a b : Nat) : Nat := (a + b - 1) / b

end Sys2Proof
end

