-- ==== Sys2Proof/Config.lean ====
section
/-! DEFINITION. What an implementation fixes and the spec leaves open. Every constant here is opaque: nothing can be
proved of its value, so a claim holds whatever the device does. `n` is the free-value counter of the state (log 7). -/

namespace Sys2Proof.Config

/-- How many ticks beyond the first a waypoint word waits after the previous one completed (R100; log 7). -/
opaque waypointGap : Nat → Nat

/-- How many ticks a scan of a page takes from its start to the completion of its request (R52; log 10). -/
opaque scanTicks : Nat → Nat

/-- How many ticks a context save takes (R278; log 10). -/
opaque saveTicks : Nat → Nat

/-- How long after the earliest count a suspended itinerary resumes (R80; log 10). -/
opaque resumeDelay : Nat → Nat

/-- The function of the host port to which firmware binds a context of a device (R276, R277; log 23). -/
opaque functionOf : (dev ctx : Nat) → Nat

/-- How long after the stop the leader writes the kept record; R307 bounds the count (log 11). -/
opaque recordDelay : Nat → Nat

/-- The module power in watts that the power controller measures (R329; log 12). -/
opaque modulePower : Nat → Nat

/-- How far beyond the least lead the leader sets the start count of a group hold (R84; log 12). -/
opaque holdLead : Nat → Nat

/-- The expert table of R329: the extra pulses E for an excess in watts (log 12). -/
opaque expertPulses : Nat → BitVec 4

/-- E and N of the hold record of an emergency thermal trip, at the bits of R325 (R84; log 98). -/
opaque tripHold : Nat → BitVec 32

/-- The RSASSA-PSS signature of an attestation report (R328; log 13). -/
opaque signature : (nonce devid life measurements : Nat) → Nat

/-- The nonce the security controller offers for unlock tokens after its n-th change (R328; log 13). -/
opaque nonce : Nat → BitVec 256

/-- A byte that the device does not state: of a view or record for a malformed log area (R239; log 21), or of a PEER read that
no page of the target maps (R148; log 143). -/
opaque freeByte : Nat → Byte

/-- What a read of a write-only register of the control view returns (R327; log 34). -/
opaque writeOnly : Nat → BitVec 64

/-- The 32 bytes of a lifecycle state with which dbgopen extends measurement register 15 (R118; log 35). -/
opaque lifecycleImage : Nat → BitVec 256

end Sys2Proof.Config
end

