-- ==== Sys2Proof/Syntax.lean ====
section
/-! DEFINITION. The syntax of the KV7: one constructor of `Instr` per row of the opcode table. The first 216 rows are
the words of the four streams; the other 62 rows are the steps of the device that no word encodes (results,
performs, landings, drover, host and firmware acts), whose operands are plain data. -/

namespace Sys2Proof

/-! ## Names -/

/-- A logical core: group device number, partition number on it, logical core within it (R3, R4). -/
structure CoreId where
  dev : Nat
  part : Nat
  core : Nat
  deriving DecidableEq, Repr, Inhabited

/-- A context of a device (R3). -/
structure CtxId where
  dev : Nat
  ctx : Nat
  deriving DecidableEq, Repr, Inhabited

/-- ENGINE of a fault record (R307). -/
inductive Engine where
  | sq | ax | vx | mx | nmu | link | drover
  deriving DecidableEq, Repr, Inhabited

/-- The stream a fork names (R38). -/
inductive Strm where
  | vx | mx | ax
  deriving DecidableEq, Repr, Inhabited

/-- The spaces (R145), with the code fetches of the DETAIL table of R307. -/
inductive Space where
  | sp | loft | hbm | peer | host | pool | code
  deriving DecidableEq, Repr, Inhabited

/-- Format tags (R125). -/
inductive Tag where
  | none | f32 | f16 | bf16 | e4m3 | e5m2 | i32 | i16 | i8 | u8 | c32
  deriving DecidableEq, Repr, Inhabited

/-- The kinds of a code page (R51). -/
inductive PageKind where
  | sqTimed | sqWaypoint | vx | mx | ax
  deriving DecidableEq, Repr, Inhabited

/-- Partition shapes (R4, R60). -/
inductive Shape where
  | v128 | v64 | v32
  deriving DecidableEq, Repr, Inhabited

/-- A 4 KiB image with its tag and its poison mark (R125, R309). -/
structure Tile where
  data : Image
  tag : Tag
  poison : Bool
  deriving DecidableEq, Repr, Inhabited

/-- Which word a later effect belongs to: its core, itinerary, engine, leg, issue tick and nominal tick (R76, R307). -/
structure WordRef where
  id : CoreId
  run : Nat
  eng : Engine
  leg : Nat
  issue : Nat
  nominal : Nat
  wp : Bool
  deriving DecidableEq, Repr, Inhabited

/-- Cause and DETAIL of a fault (R305, R307) and the word or unit it is charged to. -/
structure FaultInfo where
  cause : Nat
  detail : BitVec 256
  word : WordRef
  deriving DecidableEq, Repr, Inhabited

/-! ## MX data -/

/-- Sparse modes (R45). -/
inductive SMode where
  | dense | s24 | cb | cb24
  deriving DecidableEq, Repr, Inhabited

/-- A weight format (R205, R212). -/
inductive WFmt where
  | e4m3 | e5m2 | bf16 | f16
  deriving DecidableEq, Repr, Inhabited

/-- A weight buffer (R205): column j as its stored bytes (the weights of physical rows 0 to 127, R207), its 2:4 index
vector, and the fields of the buffer. -/
structure WBuf where
  cols : Vector (BitVec 2048) 128
  idx : Vector (BitVec 256) 128
  fmt : WFmt
  mode : SMode
  bitmap : BitVec 128
  live : BitVec 8
  wsc : BitVec 32
  poison : Bool
  deriving DecidableEq, Repr

/-! ## Work in flight -/

/-- Where a scalar load puts its value (R101): a slot of the s file, or a predicate. -/
inductive LoadDst where
  | sReg (slot : Nat)
  | pReg (i : Nat)
  deriving DecidableEq, Repr, Inhabited

/-- What a VX word, or an MX drain, writes at ρ − 1 (R185, R221). A tile for a register is marked as poisoned where the
word wrote only part of it: the register's own poison then stays (R310). -/
structure VxWrite where
  tiles : List (Nat × Tile)
  mask : Option (Nat × Lanes)
  push : Option (Nat × Tile)
  flags : BitVec 5
  deriving DecidableEq, Repr, Inhabited

/-- An MX product in flight (R210, R217, R218, R222): weights, vectors and scales as read at issue; `dest` names the
accumulator each buffer feeds, or the result queue of a known-answer form. -/
structure Product where
  fwd : Bool
  fmt : BitVec 3
  mode : SMode
  srcs : List (WBuf × Nat)
  known : Option Nat
  vecs : List (List (BitVec 16))
  row0 : Nat
  asc : BitVec 4096
  deriving DecidableEq, Repr

/-- A mwld in flight (R213): the bytes read so far. -/
structure MwldJob where
  buf : Nat
  fmt : WFmt
  mode : SMode
  off : Nat
  nb : Nat
  live : BitVec 128
  cols : Vector (BitVec 2048) 128
  idx : Vector (BitVec 256) 128
  deriving DecidableEq, Repr

/-- A result that waits for its tick (R69, R70, R75, R77, R88, R107, R134, R185, R210). -/
inductive Result where
  | sReg (slot : Nat) (v : Reg)
  | pReg (i : Nat) (v : Bool)
  | hReg (h : Nat) (quarter : Nat) (v : Reg)
  | token (k : Nat) (st ph : Bool)
  | csr (idx : Nat) (v : Reg)
  | vx (w : VxWrite)
  | product (p : Product)
  | wbuf (j : MwldJob)
  | accClear (acc : Nat)
  | nmuFlags (f : BitVec 5)
  | ended
  | yieldPoint
  | fault (cause : Nat) (detail : BitVec 256)
  | mismatch (c cst : BitVec 32)
  deriving DecidableEq, Repr

/-- A copy in flight (R161, R162): beat bytes, ticks from beat to beat, ticks from a read to its write. `target` is
the core whose handle a PEER copy uses (R148). -/
structure CopyJob where
  src : Space
  dst : Space
  sAddr : Nat
  dAddr : Nat
  len : Nat
  beat : Nat
  step : Nat
  lag : Nat
  handle : Nat
  target : Option CoreId
  h : Nat
  deriving DecidableEq, Repr

/-- A feed in flight (R166–R168). -/
structure FeedJob where
  q : Nat
  src : Space
  addr : Nat
  entries : Nat
  tag : Tag
  pitch : Option Nat
  beat : Nat
  step : Nat
  lag : Nat
  handle : Nat
  target : Option CoreId
  h : Nat
  deriving DecidableEq, Repr

/-- A drain in flight (R169). -/
structure DrainJob where
  o : Nat
  addr : Nat
  entries : Nat
  pitch : Option Nat
  deriving DecidableEq, Repr

/-- A send in flight (R267): destinations as (member, core). -/
structure SendJob where
  src : Nat
  dst : Nat
  flits : Nat
  dests : List (Nat × CoreId)
  tracker : Nat
  deriving DecidableEq, Repr

/-- The collective operations (R269). -/
inductive CollOp where
  | sumF32 | sumC32 | maxF32
  deriving DecidableEq, Repr, Inhabited

/-- A collective as one core issued it (R269, R270): members in contribution order, this core's place among them. -/
structure CollJob where
  word : WordRef
  op : CollOp
  herd : Nat
  src : Nat
  dst : Nat
  n : Nat
  members : List (Nat × CoreId)
  index : Nat
  hc : Nat
  issued : Nat
  deriving DecidableEq, Repr

/-- A PEER read whose request travels to the target (R148, R271). -/
inductive PeerJob where
  | load (target : CoreId) (addr size : Nat) (dst : LoadDst) (h : Nat)
  | copy (c : CopyJob) (j : Nat)
  | feed (f : FeedJob) (j b : Nat) (got : List Byte)
  deriving DecidableEq, Repr

/-- The NMU commands (R245, R292). -/
inductive NmuOp where
  | papplyAdd | papplySet | papplyAddw | pinv | pdrop | pcomm | ptrans | ptransA | psquash | psquashX
  | pinfo | plog | plogR
  | skinit | skupd | skqry | skadd | skaddP | skscl | skopt | skcpyOut | skcpyIn | skcpyS
  deriving DecidableEq, Repr, Inhabited

/-- A patch or sketch command in flight (R246, R293): its captured handles, sizing word, descriptor and input beats,
the second object as read at π − 1, and a poisoned unit among what it has read before π, which is consumed there (R310). -/
structure NmuCmd where
  op : NmuOp
  word : WordRef
  ha : BitVec 256
  hb : BitVec 256
  work : Nat
  pbytes : Nat
  bi : Nat
  bo : Nat
  descAt : Nat
  region : BitVec 13
  desc : BitVec 512
  input : List Byte
  second : List Byte
  poison : Option (BitVec 256)
  deriving DecidableEq, Repr

/-- One access or beat that performs at its tick (R224, R225). `store` is a timed write at its tick before it is put in
the order of R226, and `copyWrite` is that write in its place. -/
inductive Access where
  | load (word : WordRef) (space : Space) (addr size : Nat) (dst : LoadDst)
  | store (word : WordRef) (space : Space) (addr : Nat) (bytes : List Byte) (poison : List Nat)
  | copyRead (word : WordRef) (c : CopyJob) (j : Nat)
  | copyWrite (word : WordRef) (space : Space) (addr : Nat) (bytes : List Byte) (poison : List Nat)
  | feedRead (word : WordRef) (f : FeedJob) (j b : Nat) (got : List Byte)
  | drainPop (word : WordRef) (d : DrainJob) (j : Nat)
  | sendRead (word : WordRef) (s : SendJob) (f : Nat)
  | collRead (word : WordRef) (c : CollJob) (f : Nat)
  | descRead (c : NmuCmd)
  | inputRead (c : NmuCmd) (j : Nat)
  | secondRead (c : NmuCmd)
  | mwldBeat (word : WordRef) (j : MwldJob) (b : Nat)
  | dispRead (word : WordRef) (number j : Nat)
  | dispWrite (word : WordRef) (number j : Nat)
  deriving DecidableEq, Repr

/-- What a data flit carries (R264, R267, R270, R271). -/
inductive Cargo where
  | send (dests : List CoreId) (addr : Nat) (bytes : List Byte) (poison : List Nat) (tracker : Nat)
  | coll (dst : CoreId) (index : Nat) (job : CollJob) (f : Nat) (bytes : List Byte)
  | collResult (dests : List (WordRef × Nat)) (at' : Nat) (bytes : List Byte) (flags : BitVec 5)
  | peerRequest (p : PeerJob)
  | peerResponse (lands : List (Nat × Access)) (result : Option (LoadDst × Reg))
  deriving DecidableEq, Repr

/-- A flit at a link end (R261, R264): a control flit of a stated arrival offset, or a data flit with the device that
sent it and the hops that are left of its route. `enter`: it enters its route by this link end, the first of its hops, or has
crossed the chip where it has none. `arrive`: it has come over the link, to this end. `relay`: it enters a further link by this
end, the first of the hops that are left. `silence since`: none that is valid has come for 64 ticks, the last one at count
`since` (R273). -/
inductive FlitBody where
  | control (ofs : Int)
  | silence (since : Nat)
  | enter (word : WordRef) (src : Nat) (hops : List (Nat × Nat)) (cargo : Cargo)
  | arrive (word : WordRef) (src : Nat) (hops : List (Nat × Nat)) (cargo : Cargo)
  | relay (word : WordRef) (src : Nat) (hops : List (Nat × Nat)) (cargo : Cargo)
  deriving DecidableEq, Repr

/-- A storage unit that an error strikes or poison marks (R309, R310, R315). -/
inductive UnitId where
  | spLine (id : CoreId) (line : Nat)
  | loftLine (id : CoreId) (line : Nat)
  | tile (id : CoreId) (i : Nat)
  | queue (id : CoreId) (result : Bool) (q i : Nat)
  | latch (id : CoreId) (i : Nat)
  | weight (id : CoreId) (b : Nat) (row : Bool) (i : Nat)
  | split (id : CoreId) (bank : Nat) (addr : Nat)
  | vxLanes (id : CoreId)
  | hbmLine (dev line : Nat)
  | linkFlit (dev link : Nat)
  deriving DecidableEq, Repr

/-- A page mapping as firmware asks for it (R51, R52, R56, R149, R151). -/
structure MapReq where
  ctx : Nat
  va : Nat
  size : Nat
  frame : Nat
  exec : Option Nat
  writable : Bool
  tensor : Bool
  deriving DecidableEq, Repr, Inhabited

/-- A data image of an itinerary (R26): SP or LOFT bytes of one core, or HBM bytes. -/
structure DataImage where
  space : Space
  core : Nat
  addr : Nat
  bytes : List Byte
  deriving DecidableEq, Repr, Inhabited

/-- A tensor image (R29, R239): where its handle image lies, the handle as the image gives it, its one to four dimensions,
outermost first, its base bytes and the virtual address the loader chose for its log area. -/
structure TensorImage where
  handleAt : Nat
  handle : BitVec 256
  dims : List Nat
  bytes : List Byte
  logAt : Nat
  deriving DecidableEq, Repr, Inhabited

/-- What an image load brings (R59, R61, R239): the HBM parts, the SP and LOFT images kept for first departures, and
the herd and scope tables, entries as (member, core). -/
structure ItinImage where
  herdsAt : Nat
  scopesAt : Nat
  legt : Nat
  data : List DataImage
  tensors : List TensorImage
  herds : List (List (Nat × Nat))
  scopes : List (List (Nat × Nat))
  signed : Bool
  deriving DecidableEq, Repr, Inhabited

/-- One route of the group (R259): hops as (device, link) in order, and its latency H. -/
structure Route where
  src : Nat
  dst : Nat
  hops : List (Nat × Nat)
  h : Nat
  deriving DecidableEq, Repr, Inhabited

/-- One link end as firmware fixes it (R259, R264, R272). -/
structure LinkSet where
  dev : Nat
  link : Nat
  classB : Bool
  pdev : Nat
  plink : Nat
  part : Option Nat
  deriving DecidableEq, Repr, Inhabited

/-- A group as firmware forms it (R259). -/
structure GroupSet where
  size : Nat
  links : List LinkSet
  routes : List Route
  deriving DecidableEq, Repr, Inhabited

/-- Whose group hold it is (R84). -/
inductive HoldCause where
  | power | thermal | trace
  deriving DecidableEq, Repr, Inhabited

/-- The halt scopes (R85, R305). -/
inductive HaltScope where
  | itinerary | group
  deriving DecidableEq, Repr, Inhabited

/-- An unwind of a kraal (R311): fault count, region, herd, the original cause. -/
structure Unwind where
  t : Nat
  region : BitVec 13
  herd : Nat
  cause : Nat
  deriving DecidableEq, Repr, Inhabited

/-- Which untimed access reaches its completer (R231, R232): a whole dispatch by its number, one aligned 64-byte chunk of
a dispatch by its place in it, or the SQ access of the core that issued at a count. -/
inductive UntimedId where
  | dispatch (number : Nat)
  | chunk (number k : Nat)
  | scalar (issued : Nat)
  deriving DecidableEq, Repr, Inhabited

/-- What firmware knows of a device's cores at bring-up: the physical cores that SPMAP names and those it marks as failed
(R318, R330). -/
structure CoreReport where
  spmap : List Nat
  failed : List Nat
  deriving DecidableEq, Repr, Inhabited

/-- What a host write reaches that has no behaviour of its own, and the function it comes through (R277, R280, R327). -/
inductive RegTarget where
  | bar0 (fn index : Nat)
  | record (fn ctx byte : Nat)
  | member (fn ctx entry : Nat)
  | other (fn ctx byte : Nat)
  deriving DecidableEq, Repr, Inhabited

/-- The tail of a layout-V head (R41). -/
structure VTail where
  vc : BitVec 6
  m : BitVec 3
  rm : BitVec 2
  hA : Bool
  hB : Bool
  hC : Bool
  nv : Bool
  x : BitVec 6
  deriving DecidableEq, Repr, Inhabited

/-! ## Instructions and steps -/

/-- One constructor per row of the opcode table. `g` is the IDLE field of a word (R34). -/
inductive Instr where
  -- Words every stream or SQ, AX share (R67–R75, R158)
  | idle (g : BitVec 4) (w : BitVec 21)
  | endW (g : BitVec 4)
  | tkset (g : BitVec 4) (k : BitVec 6) (st ph : Bool)
  | tkchk (g : BitVec 4) (k : BitVec 6) (st ph : Bool)
  | mark (g : BitVec 4) (n : BitVec 22)
  | fork (g : BitVec 4) (m : Strm) (t : BitVec 22)
  | join (g : BitVec 4) (m : BitVec 3)
  | yieldW (g : BitVec 4)
  | rep (g : BitVec 4) (len : BitVec 9) (cnt : BitVec 12)
  | repn (g : BitVec 4) (len : BitVec 9) (n : BitVec 4)
  -- SQ arithmetic (R88–R92)
  | add (g : BitVec 4) (d a b : BitVec 6)
  | sub (g : BitVec 4) (d a b : BitVec 6)
  | andR (g : BitVec 4) (d a b : BitVec 6)
  | orR (g : BitVec 4) (d a b : BitVec 6)
  | xorR (g : BitVec 4) (d a b : BitVec 6)
  | shl (g : BitVec 4) (d a b : BitVec 6)
  | shr (g : BitVec 4) (d a b : BitVec 6)
  | sra (g : BitVec 4) (d a b : BitVec 6)
  | mul (g : BitVec 4) (d a b : BitVec 6)
  | mulh (g : BitVec 4) (d a b : BitVec 6)
  | mulhu (g : BitVec 4) (d a b : BitVec 6)
  | divS (g : BitVec 4) (d a b : BitVec 6)
  | divu (g : BitVec 4) (d a b : BitVec 6)
  | rem (g : BitVec 4) (d a b : BitVec 6)
  | remu (g : BitVec 4) (d a b : BitVec 6)
  | addi (g : BitVec 4) (d a : BitVec 6) (m : BitVec 9)
  | andi (g : BitVec 4) (d a : BitVec 6) (m : BitVec 9)
  | ori (g : BitVec 4) (d a : BitVec 6) (m : BitVec 9)
  | shli (g : BitVec 4) (d a : BitVec 6) (m : BitVec 9)
  | shri (g : BitVec 4) (d a : BitVec 6) (m : BitVec 9)
  | srai (g : BitVec 4) (d a : BitVec 6) (m : BitVec 9)
  | xori (g : BitVec 4) (d a : BitVec 6) (m : BitVec 9)
  | addiL (g : BitVec 4) (d a : BitVec 6) (m : BitVec 30)
  | oriL (g : BitVec 4) (d a : BitVec 6) (m : BitVec 30)
  | cmpEq (g d : BitVec 4) (a b : BitVec 6)
  | cmpNe (g d : BitVec 4) (a b : BitVec 6)
  | cmpLt (g d : BitVec 4) (a b : BitVec 6)
  | cmpGe (g d : BitVec 4) (a b : BitVec 6)
  | cmpLtu (g d : BitVec 4) (a b : BitVec 6)
  | cmpGeu (g d : BitVec 4) (a b : BitVec 6)
  | cmpiEq (g p : BitVec 4) (a : BitVec 6) (m : BitVec 8)
  | cmpiNe (g p : BitVec 4) (a : BitVec 6) (m : BitVec 8)
  | cmpiLt (g p : BitVec 4) (a : BitVec 6) (m : BitVec 8)
  | cmpiGe (g p : BitVec 4) (a : BitVec 6) (m : BitVec 8)
  | cmpiLtu (g p : BitVec 4) (a : BitVec 6) (m : BitVec 8)
  | cmpiGeu (g p : BitVec 4) (a : BitVec 6) (m : BitVec 8)
  | pand (g d a b : BitVec 4)
  | por (g d a b : BitVec 4)
  | pxor (g d a b : BitVec 4)
  | pandn (g d a b : BitVec 4)
  | porn (g d a b : BitVec 4)
  | pnot (g d a : BitVec 4)
  -- SQ control (R93–R99, R114, R115)
  | brb (g p : BitVec 4) (o : BitVec 16)
  | brbN (g p : BitVec 4) (o : BitVec 16)
  | loop (g : BitVec 4) (c : BitVec 6) (stg : BitVec 3) (o : BitVec 12)
  | jmp (o : BitVec 21)
  | call (o : BitVec 21)
  | trap (g : BitVec 4) (c : BitVec 8)
  | eret (g : BitVec 4)
  -- SQ memory (R101–R103)
  | ldsSp (g : BitVec 4) (d a : BitVec 6) (z : BitVec 2) (o : BitVec 7)
  | ldsLoft (g : BitVec 4) (d a : BitVec 6) (z : BitVec 2) (o : BitVec 7)
  | ldsHbm (g : BitVec 4) (d a : BitVec 6) (z : BitVec 2) (o : BitVec 7)
  | ldsPeer (g : BitVec 4) (d a : BitVec 6) (z : BitVec 2) (o : BitVec 7)
  | ldsHost (g : BitVec 4) (d a : BitVec 6) (z : BitVec 2) (o : BitVec 7)
  | ldpSp (g d : BitVec 4) (a : BitVec 6) (z : BitVec 2) (o : BitVec 7)
  | ldpHbm (g d : BitVec 4) (a : BitVec 6) (z : BitVec 2) (o : BitVec 7)
  | wrsSp (g : BitVec 4) (d a : BitVec 6) (z : BitVec 2) (o : BitVec 7)
  | wrsHost (g : BitVec 4) (d a : BitVec 6) (z : BitVec 2) (o : BitVec 7)
  | pfh (g : BitVec 4) (a : BitVec 6) (o : BitVec 7)
  -- SQ handles, events, registers, debug (R104–R118, R234, R262, R272, R319)
  | hbind (g : BitVec 4) (h : BitVec 5) (a : BitVec 6)
  | hunbind (g : BitVec 4) (h : BitVec 5)
  | hset (g : BitVec 4) (h : BitVec 5) (a b : BitVec 6)
  | hget (g : BitVec 4) (h : BitVec 5) (d b : BitVec 6)
  | evrdRead (g : BitVec 4) (d : BitVec 6) (w : BitVec 2)
  | evrdRemove (g : BitVec 4) (d : BitVec 6)
  | evrdCount (g : BitVec 4) (d : BitVec 6)
  | evwait (g : BitVec 4)
  | csrr (g : BitVec 4) (d : BitVec 6) (x : BitVec 15)
  | csrw (g : BitVec 4) (a : BitVec 6) (x : BitVec 15)
  | ccntCount (g : BitVec 4) (d : BitVec 6)
  | ccntLegTick (g : BitVec 4) (d : BitVec 6)
  | kopen (g : BitVec 4) (hd : BitVec 8) (rg : BitVec 13) (o : BitVec 21)
  | kclose (g : BitVec 4) (rg : BitVec 13)
  | pace (g : BitVec 4)
  | lstat (g : BitVec 4) (d : BitVec 6) (x : BitVec 15)
  | xfence (g : BitVec 4) (ca cb : BitVec 3) (sc : BitVec 5)
  | brk (g : BitVec 4) (c : BitVec 8)
  | trig (g : BitVec 4) (a : BitVec 6)
  | fuserd (g : BitVec 4) (d : BitVec 6) (x : BitVec 15)
  | keywipe (g : BitVec 4)
  | dbgopen (g : BitVec 4)
  | measure (g : BitVec 4) (a : BitVec 6) (x : BitVec 15)
  | spoorMarker (g : BitVec 4) (a : BitVec 6)
  | spoorClassMask (g : BitVec 4) (a : BitVec 6)
  -- VX (R188–R201)
  | vadd (g : BitVec 4) (f : BitVec 3) (d a b : BitVec 6) (t : Option VTail)
  | vsub (g : BitVec 4) (f : BitVec 3) (d a b : BitVec 6) (t : Option VTail)
  | vmul (g : BitVec 4) (f : BitVec 3) (d a b : BitVec 6) (t : Option VTail)
  | vfma (g : BitVec 4) (f : BitVec 3) (d a b : BitVec 6) (t : Option VTail)
  | vfms (g : BitVec 4) (f : BitVec 3) (d a b : BitVec 6) (t : Option VTail)
  | vfnma (g : BitVec 4) (f : BitVec 3) (d a b : BitVec 6) (t : Option VTail)
  | vmax (g : BitVec 4) (f : BitVec 3) (d a b : BitVec 6) (t : Option VTail)
  | vmin (g : BitVec 4) (f : BitVec 3) (d a b : BitVec 6) (t : Option VTail)
  | vabs (g : BitVec 4) (f : BitVec 3) (d a : BitVec 6) (t : Option VTail)
  | vneg (g : BitVec 4) (f : BitVec 3) (d a : BitVec 6) (t : Option VTail)
  | vcmp (g : BitVec 4) (f d : BitVec 3) (a b : BitVec 6) (t : VTail)
  | vsel (g : BitVec 4) (f : BitVec 3) (d a b : BitVec 6) (t : Option VTail)
  | vmov (g : BitVec 4) (f : BitVec 3) (d a : BitVec 6) (t : Option VTail)
  | vbcast (g : BitVec 4) (f : BitVec 3) (d a : BitVec 6) (t : Option VTail)
  | viadd (g : BitVec 4) (f : BitVec 3) (d a b : BitVec 6) (t : Option VTail)
  | visub (g : BitVec 4) (f : BitVec 3) (d a b : BitVec 6) (t : Option VTail)
  | vimul (g : BitVec 4) (f : BitVec 3) (d a b : BitVec 6) (t : Option VTail)
  | vimac (g : BitVec 4) (f : BitVec 3) (d a b : BitVec 6) (t : Option VTail)
  | vand (g : BitVec 4) (f : BitVec 3) (d a b : BitVec 6) (t : Option VTail)
  | vor (g : BitVec 4) (f : BitVec 3) (d a b : BitVec 6) (t : Option VTail)
  | vxor (g : BitVec 4) (f : BitVec 3) (d a b : BitVec 6) (t : Option VTail)
  | vnot (g : BitVec 4) (f : BitVec 3) (d a : BitVec 6) (t : Option VTail)
  | vshl (g : BitVec 4) (f : BitVec 3) (d a b : BitVec 6) (t : Option VTail)
  | vshr (g : BitVec 4) (f : BitVec 3) (d a b : BitVec 6) (t : Option VTail)
  | vsra (g : BitVec 4) (f : BitVec 3) (d a b : BitVec 6) (t : Option VTail)
  | vimax (g : BitVec 4) (f : BitVec 3) (d a b : BitVec 6) (t : Option VTail)
  | vimin (g : BitVec 4) (f : BitVec 3) (d a b : BitVec 6) (t : Option VTail)
  | vicmp (g : BitVec 4) (f d : BitVec 3) (a b : BitVec 6) (t : VTail)
  | vcvt (g : BitVec 4) (f : BitVec 3) (d a b : BitVec 6) (t : VTail)
  | vcvtef (g : BitVec 4) (f : BitVec 3) (d a b : BitVec 6) (t : VTail)
  | vrsum (g : BitVec 4) (f : BitVec 3) (d a : BitVec 6) (t : Option VTail)
  | vcsum (g : BitVec 4) (f : BitVec 3) (d a : BitVec 6) (t : Option VTail)
  | vrmax (g : BitVec 4) (f : BitVec 3) (d a : BitVec 6) (t : Option VTail)
  | vcmax (g : BitVec 4) (f : BitVec 3) (d a : BitVec 6) (t : Option VTail)
  | vexp2 (g : BitVec 4) (f : BitVec 3) (d a : BitVec 6) (t : Option VTail)
  | vlog2 (g : BitVec 4) (f : BitVec 3) (d a : BitVec 6) (t : Option VTail)
  | vrcp (g : BitVec 4) (f : BitVec 3) (d a : BitVec 6) (t : Option VTail)
  | vrsqrt (g : BitVec 4) (f : BitVec 3) (d a : BitVec 6) (t : Option VTail)
  | vexp (g : BitVec 4) (f : BitVec 3) (d a : BitVec 6) (t : Option VTail)
  | vlog (g : BitVec 4) (f : BitVec 3) (d a : BitVec 6) (t : Option VTail)
  | vtanh (g : BitVec 4) (f : BitVec 3) (d a : BitVec 6) (t : Option VTail)
  | vsigm (g : BitVec 4) (f : BitVec 3) (d a : BitVec 6) (t : Option VTail)
  | vperm (g : BitVec 4) (f : BitVec 3) (d a b : BitVec 6) (t : Option VTail)
  | vtrans (g : BitVec 4) (f : BitVec 3) (d a : BitVec 6) (t : Option VTail)
  | vpack (g : BitVec 4) (f : BitVec 3) (d a : BitVec 6) (t : Option VTail)
  | vbmm (g : BitVec 4) (f : BitVec 3) (d a b : BitVec 6) (t : VTail)
  | vkac (g : BitVec 4) (a : BitVec 6) (cst : BitVec 32)
  | vshape (g : BitVec 4) (r : BitVec 5)
  -- MX (R213–R222)
  | mwld (g : BitVec 4) (b : Bool) (f : BitVec 3) (m : BitVec 2) (o : BitVec 11)
  | mfwd (g : BitVec 4) (c : Bool) (f : BitVec 3) (o : Bool) (m : BitVec 2) (q : BitVec 3) (u : Bool) (r : BitVec 4)
  | mbwd (g : BitVec 4) (c : Bool) (f : BitVec 3) (o : Bool) (q : BitVec 3) (u : Bool) (r : BitVec 4)
  | msclAct (g : BitVec 4) (q : BitVec 3)
  | msclWt0 (g : BitVec 4) (q : BitVec 3)
  | msclWt1 (g : BitVec 4) (q : BitVec 3)
  | msclAll (g : BitVec 4) (q : BitVec 3)
  | msparse (g : BitVec 4) (b : Bool) (q : BitVec 3) (l : BitVec 8)
  | mclr (g : BitVec 4) (c : Bool)
  | mdrain (g : BitVec 4) (c : Bool) (q : BitVec 2) (z : Bool) (r : BitVec 4)
  | mkfwd (g : BitVec 4) (f : BitVec 3) (o m : Bool) (q : BitVec 3) (u : Bool) (r : BitVec 2)
  | mkbwd (g : BitVec 4) (f : BitVec 3) (o : Bool) (q : BitVec 3) (u : Bool) (r : BitVec 2)
  | mcfg (g : BitVec 4) (v : Bool) (r : BitVec 2) (f : BitVec 3)
  -- AX (R155–R173)
  | aadd (g : BitVec 4) (d a b : BitVec 5)
  | asub (g : BitVec 4) (d a b : BitVec 5)
  | aand (g : BitVec 4) (d a b : BitVec 5)
  | aor (g : BitVec 4) (d a b : BitVec 5)
  | axor (g : BitVec 4) (d a b : BitVec 5)
  | ashl (g : BitVec 4) (d a b : BitVec 5)
  | ashr (g : BitVec 4) (d a b : BitVec 5)
  | asra (g : BitVec 4) (d a b : BitVec 5)
  | aaddi (g : BitVec 4) (d a : BitVec 5) (m : BitVec 11)
  | aandi (g : BitVec 4) (d a : BitVec 5) (m : BitVec 11)
  | ashli (g : BitVec 4) (d a : BitVec 5) (m : BitVec 11)
  | ashri (g : BitVec 4) (d a : BitVec 5) (m : BitVec 11)
  | aliL (g : BitVec 4) (d : BitVec 5) (m : BitVec 37)
  | nli (g d : BitVec 4) (m : BitVec 17)
  | naddi (g d n : BitVec 4) (m : BitVec 13)
  | nmov (g d : BitVec 4) (a : BitVec 5)
  | amov (g : BitVec 4) (d : BitVec 5) (n : BitVec 4)
  | aswz (g : BitVec 4) (d a : BitVec 5) (m : BitVec 11)
  | cpHbmSp (g : BitVec 4) (d a : BitVec 5) (n : BitVec 4) (h : BitVec 5)
  | cpHbmLoft (g : BitVec 4) (d a : BitVec 5) (n : BitVec 4) (h : BitVec 5)
  | cpSpLoft (g : BitVec 4) (d a : BitVec 5) (n : BitVec 4)
  | cpSpSp (g : BitVec 4) (d a : BitVec 5) (n : BitVec 4)
  | cpPeerSp (g : BitVec 4) (d a : BitVec 5) (n : BitVec 4) (h : BitVec 5)
  | cpLoftSp (g : BitVec 4) (d a : BitVec 5) (n : BitVec 4)
  | xldHost (g : BitVec 4) (d a : BitVec 5) (n : BitVec 4) (p : Bool)
  | xstHost (g : BitVec 4) (d a : BitVec 5) (n : BitVec 4) (p : Bool)
  | xldPool (g : BitVec 4) (d a : BitVec 5) (n : BitVec 4) (p : Bool)
  | xstPool (g : BitVec 4) (d a : BitVec 5) (n : BitVec 4) (p : Bool)
  | qfdSp (g : BitVec 4) (q : BitVec 3) (a : BitVec 5) (n : BitVec 4) (t : BitVec 5) (o : Bool) (p : BitVec 3)
  | qfdHbm (g : BitVec 4) (q : BitVec 3) (a : BitVec 5) (n : BitVec 4) (h : BitVec 5) (o : Bool) (p : BitVec 3)
  | qfdPeer (g : BitVec 4) (q : BitVec 3) (a : BitVec 5) (n : BitVec 4) (h : BitVec 5) (o : Bool) (p : BitVec 3)
  | odrSp (g : BitVec 4) (q : BitVec 2) (a : BitVec 5) (n : BitVec 4) (o : Bool) (p : BitVec 3)
  -- Patches (R245)
  | papplyAdd (g : BitVec 4) (h a : BitVec 5)
  | papplySet (g : BitVec 4) (h a : BitVec 5)
  | papplyAddw (g : BitVec 4) (h a : BitVec 5)
  | pinv (g : BitVec 4) (h a : BitVec 5)
  | pdrop (g : BitVec 4) (h a : BitVec 5)
  | pcomm (g : BitVec 4) (h a : BitVec 5)
  | ptrans (g : BitVec 4) (h k a : BitVec 5)
  | ptransA (g : BitVec 4) (h k a : BitVec 5)
  | psquash (g : BitVec 4) (h a : BitVec 5)
  | psquashX (g : BitVec 4) (h a : BitVec 5)
  | pinfo (g : BitVec 4) (h a : BitVec 5)
  | plog (g : BitVec 4) (h a : BitVec 5)
  | plogR (g : BitVec 4) (h a : BitVec 5)
  -- Sketches (R292)
  | skinit (g : BitVec 4) (h a : BitVec 5)
  | skupd (g : BitVec 4) (h a : BitVec 5)
  | skqry (g : BitVec 4) (h a : BitVec 5)
  | skadd (g : BitVec 4) (h k a : BitVec 5)
  | skaddP (g : BitVec 4) (h a : BitVec 5)
  | skscl (g : BitVec 4) (h a : BitVec 5)
  | skopt (g : BitVec 4) (h k a : BitVec 5)
  | skcpyOut (g : BitVec 4) (h a : BitVec 5)
  | skcpyIn (g : BitVec 4) (h a : BitVec 5)
  | skcpyS (g : BitVec 4) (h k a : BitVec 5)
  -- Fabric (R267–R269)
  | send (g : BitVec 4) (h : BitVec 8) (a : BitVec 5) (n k : BitVec 4)
  | recv (g : BitVec 4) (h : BitVec 8) (n k : BitVec 4)
  | collSumF32 (g : BitVec 4) (h : BitVec 8) (a : BitVec 5) (n : BitVec 4)
  | collSumC32 (g : BitVec 4) (h : BitVec 8) (a : BitVec 5) (n : BitVec 4)
  | collMaxF32 (g : BitVec 4) (h : BitVec 8) (a : BitVec 5) (n : BitVec 4)
  -- Steps without a word
  | leasedResult (word : WordRef) (r : Result)
  | accessPerform (a : Access)
  | queueEntryReady (word : WordRef) (result : Bool) (q ready : Nat)
  | patchPerform (c : NmuCmd)
  | sketchPerform (c : NmuCmd)
  | commandRecordWrite (c : NmuCmd) (addr : Nat) (out : List Byte) (left : List (Nat × List Byte))
  | flitLanding (word : WordRef) (dst : CoreId) (addr : Nat) (bytes : List Byte) (poison : List Nat) (tracker : Nat)
  | flitArrival (dev link : Nat) (body : FlitBody)
  | collReduce (word : WordRef) (j : CollJob) (f : Nat)
  | collResultWrite (word : WordRef) (dst : CoreId) (addr : Nat) (bytes : List Byte) (flags : BitVec 5)
  | peerRequest (word : WordRef) (p : PeerJob)
  | dispatchLanding (word : WordRef) (number : Nat)
  | fenceRelease (run : Nat) (id : CoreId) (number : Nat)
  | launchForward (dev ctx : Nat) (rec : BitVec 512) (members : List (Nat × Nat))
  | departure (run : Nat)
  | legDeparture (run leg : Nat)
  | legOverrun (run leg : Nat)
  | haltFlit (dev run t : Nat) (scope : HaltScope) (origin cause : Nat)
  | haltStop (dev run t : Nat)
  | faultRecordWrite (run : Nat) (unwind : Option Unwind)
  | preemptPending (c : CtxId)
  | contextSaveDone (run : Nat)
  | resume (run : Nat)
  | groupHold (start ticks extra : Nat) (cause : HoldCause)
  | unwindFlit (dev run : Nat) (u : Unwind) (source : Option WordRef)
  | kraalUnwind (dev run : Nat) (u : Unwind)
  | lastLegDeadline (run leg : Nat)
  | yieldListTick (run leg tick : Nat)
  | triggerLatch (x : Nat)
  -- Steps that come from outside, and steps of the device that `cur` names
  | launchRecord (dev ctx fn : Nat) (rec : BitVec 512)
  | suspPreempt (c : CtxId) (fn : Nat) (v : Reg)
  | suspReadmit (c : CtxId) (fn : Nat) (v : Reg)
  | dbell (dev ctx fn : Nat) (v : Reg)
  | release (dev ctx : Nat) (v : Reg)
  | stopc (dev ctx : Nat) (v : Reg)
  | partset (dev : Nat) (v : Reg)
  | registerWrite (dev : Nat) (target : RegTarget) (v : Reg)
  | mapRequest (dev : Nat) (r : MapReq)
  | unmapRequest (dev ctx va : Nat) (frame : Option Nat)
  | hostMemoryWrite (dev addr : Nat) (bytes : List Byte)
  | imageLoad (dev ctx : Nat) (im : ItinImage)
  | linkDown (dev link : Nat)
  | thermalTrip (dev : Nat)
  | correctedError (u : UnitId)
  | uncorrectableError (u : UnitId)
  | bringUp (dev steps : Nat) (digest : BitVec 256) (cores : CoreReport)
  | groupForm (gs : GroupSet)
  | fuseCommand (dev : Nat) (signed : Bool)
  | rmaCommand (dev : Nat) (signed : Bool)
  | attestationRequest (dev : Nat) (nonce : BitVec 256)
  | linkRetrain (dev link : Nat)
  | unlockToken (dev : Nat) (devid life : Reg) (nonce : BitVec 256) (signed : Bool)
  | frameMap (dev : Nat) (r : MapReq)
  | leadMessage (dev link : Nat)
  | untimedCompletion (run : Nat) (id : CoreId) (what : UntimedId) (ok : Bool)
    (outside : List (Nat × Byte))
  | losslessHoldRequest
  | powerCheck
  | bucketLeak
  | paceLoss
  | droverServe
  | queueAging
  | scan
  -- RET stands last, since it has no operand
  | ret
  deriving DecidableEq, Repr

end Sys2Proof
end

