-- ==== Sys2Proof/Decode.lean ====
section
/-! DEFINITION. The words of the four streams (R34–R54): decoder, encoder, the scanner's checks of one word and of one
page. A reason is a code of R54; of several reasons the lowest counts (R52). -/

namespace Sys2Proof

/-! ## The common frame (R34–R37) -/

/-- OP of a word (R34). -/
def opOf (w : IWord) : BitVec 7 := w.extractLsb' 21 7

/-- IDLE of a word (R34). -/
def idleOf (w : IWord) : BitVec 4 := w.extractLsb' 28 4

/-- A tail has OP 0x7F (R36). -/
def isTail (w : IWord) : Bool := opOf w == 0x7F#7

/-- A head or single word (R34). -/
def head (g : BitVec 4) (op : BitVec 7) (b : BitVec 21) : IWord := g ++ op ++ b

/-- A tail (R36). -/
def tailWord (p : BitVec 21) : IWord := head 0#4 0x7F#7 p

/-- strm of fork (R38). -/
def strmOf (b : BitVec 2) : Option Strm :=
  if b == 1#2 then some .vx else if b == 2#2 then some .mx else if b == 3#2 then some .ax else none

/-- The code of strm (R38). -/
def strmCode : Strm → BitVec 2
  | .vx => 1#2
  | .mx => 2#2
  | .ax => 3#2

/-- The tail of a layout-V head (R41). -/
def vtailOf (p : BitVec 21) : VTail :=
  { vc := p.extractLsb' 15 6, m := p.extractLsb' 12 3, rm := p.extractLsb' 10 2, hA := p.getLsbD 9, hB := p.getLsbD 8,
    hC := p.getLsbD 7, nv := p.getLsbD 6, x := p.extractLsb' 0 6 }

/-- The tail word of a layout-V head (R41). -/
def vtailWord (t : VTail) : IWord :=
  tailWord (t.vc ++ t.m ++ t.rm ++ BitVec.ofBool t.hA ++ BitVec.ofBool t.hB ++ BitVec.ofBool t.hC ++
    BitVec.ofBool t.nv ++ t.x)

/-- An optional tail. -/
def vtailWords : Option VTail → List IWord
  | none => []
  | some t => [vtailWord t]

/-- Element width of a float code of R43; 0 where it is reserved. -/
def floatWidth (f : BitVec 3) : Nat :=
  match f.toNat with
  | 0 => 4 | 1 => 2 | 2 => 2 | 3 => 1 | 4 => 1 | _ => 0

/-- Element width of an integer code of R43; 0 where it is reserved. -/
def intWidth (f : BitVec 3) : Nat :=
  match f.toNat with
  | 0 => 4 | 1 => 2 | 2 => 1 | 3 => 1 | _ => 0

/-- The tag of a tag code (R125). -/
def tagOf (c : BitVec 5) : Option Tag :=
  match c.toNat with
  | 0 => some .none | 1 => some .f32 | 2 => some .f16 | 3 => some .bf16 | 4 => some .e4m3 | 5 => some .e5m2
  | 8 => some .i32 | 9 => some .i16 | 10 => some .i8 | 11 => some .u8 | 16 => some .c32 | _ => none

/-! ## Checks of fields (R38–R49, R187, R212) -/

/-- Reason `r` where the check fails. -/
def need (ok : Bool) (r : Nat) : List Nat := if ok then [] else [r]

/-- A legal VX source value (R42). -/
def vsrcOk (v : BitVec 6) : Bool := v.toNat ≤ 55

/-- A legal VX destination value (R42). -/
def vdstOk (v : BitVec 6) : Bool := v.toNat ≤ 47 || (56 ≤ v.toNat && v.toNat ≤ 59)

/-- A VX field that must name a tile register. -/
def vregOk (v : BitVec 6) : Bool := v.toNat ≤ 47

/-- The tail fields of a word that reads vb if `rb` and vc if `rc`, may set nv if `nv`, rm if `rm`, and the x bits of
`xs` (R41, R187). Without a tail vc is vd. -/
def tailDefects (rb rc nv rm : Bool) (xs : BitVec 6) (d : BitVec 6) : Option VTail → List Nat
  | none => need (!rc || vsrcOk d) 2
  | some t =>
    need (if rc then vsrcOk t.vc else t.vc == 0 || t.vc == d) 2 ++ need (rb || !t.hB) 3 ++ need (rc || !t.hC) 3 ++
      need (nv || !t.nv) 3 ++ need (rm || t.rm == 0) 3 ++ need (t.x &&& ~~~xs == 0) 3

/-- A layout-V word with two sources. -/
def v3Defects (fok rc nv rm : Bool) (xs d a b : BitVec 6) (t : Option VTail) : List Nat :=
  need fok 2 ++ need (vdstOk d) 2 ++ need (vsrcOk a) 2 ++ need (vsrcOk b) 2 ++ tailDefects true rc nv rm xs d t

/-- A layout-V word with one source. -/
def v2Defects (fok nv rm : Bool) (xs d a : BitVec 6) (t : Option VTail) : List Nat :=
  need fok 2 ++ need (vdstOk d) 2 ++ need (vsrcOk a) 2 ++ tailDefects false false nv rm xs d t

/-- f of a word with a format form and a width form (R190). -/
def formOk (f : BitVec 3) (t : Option VTail) : Bool :=
  if (t.map (fun t => t.x.getLsbD 5)).getD false then f.toNat ≤ 2 else f.toNat ≤ 4

/-- vcmp and vicmp (R189, R192). -/
def vcmpDefects (fok : Bool) (a b : BitVec 6) (t : VTail) : List Nat :=
  need fok 2 ++ need (vsrcOk a) 2 ++ need (vsrcOk b) 2 ++ need (t.vc == 0) 2 ++ need (t.rm == 0) 3 ++ need (!t.nv) 3 ++
    need (!t.hC) 3 ++ need (t.x.extractLsb' 3 3 == 0) 3 ++ need ((t.x.extractLsb' 0 3).toNat ≤ 5) 2

/-- Source width of a conversion (R193). -/
def cvtSrcWidth (f : BitVec 3) (x : BitVec 6) : Nat := if x.getLsbD 5 then intWidth f else floatWidth f

/-- Destination width of a conversion (R193). -/
def cvtDstWidth (x : BitVec 6) : Nat :=
  if x.getLsbD 4 then intWidth (x.extractLsb' 0 3) else floatWidth (x.extractLsb' 0 3)

/-- The part fields of a conversion of K elements (R193). -/
def partOk (ws wd k : Nat) (b : BitVec 6) : Bool :=
  (b.extractLsb' 3 3).toNat < 4096 / ws / k && (b.extractLsb' 0 3).toNat < 4096 / wd / k

/-- Some tail gives the part fields of vcvt a range that holds them (R193): else a head without one holds a reserved
value. -/
def vcvtPartMay (f : BitVec 3) (b : BitVec 6) : Bool :=
  (List.range 64).any (fun x =>
    let ws := cvtSrcWidth f (BitVec.ofNat 6 x)
    let wd := cvtDstWidth (BitVec.ofNat 6 x)
    ws != 0 && wd != 0 && partOk ws wd (4096 / max ws wd) b)

/-- The same of vcvtef. -/
def vcvtefPartMay (f : BitVec 3) (b : BitVec 6) : Bool :=
  (List.range 8).any (fun x =>
    let wd := floatWidth (BitVec.ofNat 3 x)
    wd != 0 && partOk (floatWidth f) wd 1024 b)

/-- vcvt (R187, R193). -/
def vcvtDefects (f : BitVec 3) (d a b : BitVec 6) (t : VTail) : List Nat :=
  let ws := cvtSrcWidth f t.x
  let wd := cvtDstWidth t.x
  need (ws != 0) 2 ++ need (wd != 0) 2 ++ need (vdstOk d) 2 ++ need (vsrcOk a) 2 ++
    need (partOk ws wd (4096 / max ws wd) b) 2 ++ tailDefects false false true true 0x37#6 d (some t)

/-- vcvtef (R187, R193, R49). -/
def vcvtefDefects (f : BitVec 3) (d a b : BitVec 6) (t : VTail) : List Nat :=
  let ws := floatWidth f
  let wd := floatWidth (t.x.extractLsb' 0 3)
  need (!t.x.getLsbD 5 && f.toNat ≤ 2) 2 ++ need (!t.x.getLsbD 4 && wd != 0) 2 ++ need (vdstOk d) 2 ++
    need (vsrcOk a) 2 ++ need (vregOk t.vc) 2 ++ need (d != t.vc) 7 ++
    need (!vregOk d || d.toNat % 6 != t.vc.toNat % 6) 2 ++ need (partOk ws wd 1024 b) 2 ++ need (!t.hB) 3 ++
    need (!t.hC) 3 ++ need (!t.x.getLsbD 3) 3

/-- vbmm (R187, R199). -/
def vbmmDefects (f : BitVec 3) (d a b : BitVec 6) (t : VTail) : List Nat :=
  let s := (t.x.extractLsb' 0 3).toNat
  need (f.toNat ≤ 1) 2 ++ need (vregOk d) 2 ++ need (vsrcOk a) 2 ++ need (vsrcOk b) 2 ++ need (vregOk t.vc) 2 ++
    need (1 ≤ s && s ≤ 4) 2 ++ need (t.x.extractLsb' 3 3 == 0) 3 ++ need (!t.nv) 3

/-- The largest row group of a product (R210). A column-order word in a 2:4 mode passes and faults later (R212). -/
def groupOk (f : BitVec 3) (s24 col : Bool) (r : BitVec 4) : Bool :=
  if f.toNat ≤ 3 then
    if s24 then col || r.toNat ≤ 7 else if col then r.toNat ≤ 1 else r.toNat ≤ 3
  else
    if s24 then true else if col then r.toNat ≤ 3 else r.toNat ≤ 7

/-- The CSRs of the program view that csrr reads (R112). -/
def csrReadable : List Nat :=
  [0x000, 0x001, 0x002, 0x003, 0x004, 0x005, 0x006, 0x010, 0x011, 0x012, 0x020, 0x021, 0x022, 0x023, 0x030, 0x031, 0x032]

/-- The CSRs of the program view that csrw writes (R112). -/
def csrWritable : List Nat := [0x010, 0x011, 0x012, 0x020, 0x021, 0x031, 0x032]

/-- The read-only indices of the control view: csrw of one is reserved (R111, R327). -/
def csrReadOnly (x : Nat) : Bool :=
  [0x4000, 0x4001, 0x4003, 0x4018, 0x4034, 0x4036, 0x4037, 0x4038, 0x4060, 0x4838].contains x ||
    (0x4100 ≤ x && x ≤ 0x410F) || (0x4140 ≤ x && x ≤ 0x417F) || (0x4900 ≤ x && x ≤ 0x490F) || (0x4940 ≤ x && x ≤ 0x497F)

/-- A path-class code of R231. -/
def pathOk (c : BitVec 3) : Bool := 1 ≤ c.toNat && c.toNat ≤ 4

/-- The pitch field of a queue word (R166). -/
def pitchOk (o : Bool) (p : BitVec 3) : Bool := p.toNat ≤ 6 && (o || p == 0)

/-- The reasons for which an instruction with these fields is none (R50). -/
def defects : Instr → List Nat
  | .join _ m => need (m != 0) 2
  | .brb _ _ o | .brbN _ _ o => need (o != 0) 2
  | .loop _ c _ o => need (1 ≤ c.toNat && c.toNat ≤ 31) 2 ++ need (o.getLsbD 11) 2
  | .jmp o | .call o => need (o != 0) 2
  | .shli _ _ _ m | .shri _ _ _ m | .srai _ _ _ m => need (m.toNat ≤ 63) 2
  | .csrr _ _ x => need (0x4000 ≤ x.toNat || csrReadable.contains x.toNat) 2
  | .csrw _ _ x => need (if 0x4000 ≤ x.toNat then !csrReadOnly x.toNat else csrWritable.contains x.toNat) 2
  | .kopen _ _ rg o => need (rg != 0) 2 ++ need (o != 0) 2
  | .kclose _ rg => need (rg != 0) 2
  | .lstat _ _ x =>
    need (x.toNat ≤ 0x11 || (0x100 ≤ x.toNat && x.toNat ≤ 0x1FF) || x.toNat == 0x200 || x.toNat == 0x201) 2
  | .xfence _ ca cb _ => need (pathOk ca) 2 ++ need (pathOk cb) 2
  | .fuserd _ _ x => need (x.toNat ≤ 1023) 2
  | .measure _ _ x => need (x.toNat ≤ 15) 2
  | .vadd _ f d a b t | .vsub _ f d a b t | .vmul _ f d a b t | .vmax _ f d a b t | .vmin _ f d a b t =>
    v3Defects (f.toNat ≤ 4) false true true 0 d a b t
  | .vfma _ f d a b t | .vfms _ f d a b t | .vfnma _ f d a b t => v3Defects (f.toNat ≤ 4) true true true 0 d a b t
  | .vabs _ f d a t | .vneg _ f d a t => v2Defects (f.toNat ≤ 4) true true 0 d a t
  | .vcmp _ f _ a b t => vcmpDefects (f.toNat ≤ 4) a b t
  | .vicmp _ f _ a b t => vcmpDefects (f.toNat ≤ 3) a b t
  | .vsel _ f d a b t => v3Defects (formOk f t) false false false 0x20#6 d a b t
  | .vmov _ f d a t => v2Defects (formOk f t) false false 0x20#6 d a t
  | .vbcast _ f d a t => v2Defects (formOk f t) false false 0x30#6 d a t
  | .viadd _ f d a b t | .visub _ f d a b t | .vimul _ f d a b t =>
    v3Defects (f.toNat ≤ 3) false false false 1 d a b t
  | .vimac _ f d a b t => v3Defects (f.toNat ≤ 3) true false false 1 d a b t
  | .vand _ f d a b t | .vor _ f d a b t | .vxor _ f d a b t | .vshl _ f d a b t | .vshr _ f d a b t
  | .vsra _ f d a b t | .vimax _ f d a b t | .vimin _ f d a b t =>
    v3Defects (f.toNat ≤ 3) false false false 0 d a b t
  | .vnot _ f d a t => v2Defects (f.toNat ≤ 3) false false 0 d a t
  | .vcvt _ f d a b t => vcvtDefects f d a b t
  | .vcvtef _ f d a b t => vcvtefDefects f d a b t
  | .vrsum _ f d a t | .vcsum _ f d a t | .vrmax _ f d a t | .vcmax _ f d a t =>
    v2Defects (f.toNat ≤ 4) true true 0 d a t
  | .vexp2 _ f d a t | .vlog2 _ f d a t | .vrcp _ f d a t | .vrsqrt _ f d a t | .vexp _ f d a t | .vlog _ f d a t
  | .vtanh _ f d a t | .vsigm _ f d a t => v2Defects (f.toNat ≤ 2) false true 0 d a t
  | .vperm _ f d a b t => need (vregOk b) 2 ++ v3Defects (f.toNat ≤ 1) false false false 0 d a b t
  | .vtrans _ f d a t | .vpack _ f d a t => v2Defects (f.toNat ≤ 2) false false 0 d a t
  | .vbmm _ f d a b t => vbmmDefects f d a b t
  | .vkac _ a _ => need (vsrcOk a) 2
  | .vshape _ r => need (r.toNat ≤ 12) 2
  | .mwld _ _ f _ _ => need (f == 0 || f == 2 || f == 4 || f == 5) 2
  | .mfwd _ c f o m _ u r =>
    need (f.toNat ≤ 5) 2 ++ need (m.toNat ≤ 1 || !c) 3 ++ need (m.toNat ≤ 1 || !u) 3 ++ need (groupOk f (m.getLsbD 0) o r) 2
  | .mbwd _ _ f o _ _ r => need (f.toNat ≤ 5) 2 ++ need (groupOk f false o r) 2
  | .msparse _ _ _ l => need (l.toNat ≤ 128) 2
  | .mkfwd _ f _ _ _ _ _ => need (f.toNat ≤ 5) 2
  | .mkbwd _ f _ _ _ _ => need (f.toNat ≤ 5) 2
  | .mcfg _ _ _ f => need (f.toNat ≤ 4) 2
  | .ashli _ _ _ m | .ashri _ _ _ m => need (m.toNat ≤ 63) 2
  | .xldHost _ _ _ n _ | .xstHost _ _ _ n _ | .xldPool _ _ _ n _ | .xstPool _ _ _ n _ => need (n != 15) 2
  | .qfdSp _ _ _ _ t o p => need (pitchOk o p) 2 ++ need (t != 0 && (tagOf t).isSome) 2
  | .qfdHbm _ _ _ _ _ o p | .qfdPeer _ _ _ _ _ o p => need (pitchOk o p) 2
  | .odrSp _ _ _ _ o p => need (pitchOk o p) 2
  | .papplyAdd _ _ a | .papplySet _ _ a | .papplyAddw _ _ a | .pinv _ _ a | .pdrop _ _ a | .pcomm _ _ a
  | .psquash _ _ a | .psquashX _ _ a | .pinfo _ _ a | .plog _ _ a | .plogR _ _ a => need (a != 31) 2
  | .ptrans _ _ _ a | .ptransA _ _ _ a => need (a != 31) 2
  | .skinit _ _ a | .skupd _ _ a | .skqry _ _ a | .skaddP _ _ a | .skscl _ _ a | .skcpyOut _ _ a | .skcpyIn _ _ a =>
    need (a != 31) 2
  | .skadd _ _ _ a | .skopt _ _ _ a | .skcpyS _ _ _ a => need (a != 31) 2
  | .send _ _ a _ _ => need (a != 31) 2
  | .collSumF32 _ _ a _ | .collSumC32 _ _ a _ | .collMaxF32 _ _ a _ => need (a != 31) 2
  | _ => []

/-- The reasons that the head alone shows, where a tail it requires is missing (R36, R37). -/
def headDefects : Instr → List Nat
  | .kopen _ _ rg _ => need (rg != 0) 2
  | .vcmp _ f _ a b _ => need (f.toNat ≤ 4) 2 ++ need (vsrcOk a) 2 ++ need (vsrcOk b) 2
  | .vicmp _ f _ a b _ => need (f.toNat ≤ 3) 2 ++ need (vsrcOk a) 2 ++ need (vsrcOk b) 2
  | .vcvt _ f d a b _ => need (f.toNat ≤ 4) 2 ++ need (vdstOk d) 2 ++ need (vsrcOk a) 2 ++ need (vcvtPartMay f b) 2
  | .vcvtef _ f d a b _ => need (f.toNat ≤ 2) 2 ++ need (vdstOk d) 2 ++ need (vsrcOk a) 2 ++ need (vcvtefPartMay f b) 2
  | .vkac _ a _ => need (vsrcOk a) 2
  | _ => []

/-! ## Forms of each stream (R38–R48) -/

/-- Whether a head takes a tail (R37). -/
inductive TailUse where
  | no | may | must
  deriving DecidableEq, Repr

/-- The use of a tail by the OP of a word: of a pair it is a must, and a VX word of OP rows 0x10–0x40 that is none may have
one (R37). A reserved cell has none. -/
def tailUse (k : PageKind) (w : IWord) : TailUse :=
  let op := (opOf w).toNat
  let cell := op != 0x1e && op != 0x1f && op != 0x2e && op != 0x2f && op != 0x3e && op != 0x3f
  let pairs : List Nat := match k with
    | .sqTimed | .sqWaypoint => [0x04, 0x05, 0x1c, 0x1d, 0x39]
    | .vx => [0x04, 0x1a, 0x2d, 0x30, 0x31, 0x44]
    | .mx => [0x04]
    | .ax => [0x04, 0x15]
  if pairs.contains op then .must
  else if k = .vx && 0x10 ≤ op && op ≤ 0x43 && cell then .may
  else .no

/-- How a head reads: the bits that must be zero, the instruction of its fields. -/
structure Form where
  zero : IWord
  ins : Instr
  deriving Repr

/-- The SQ map and layouts (R38–R40). -/
def sqForm (w : IWord) (p : BitVec 21) : Except Nat Form :=
  let g := idleOf w
  match (opOf w).toNat with
  | 0x0 => .ok ⟨0x0#32, .idle g (w.extractLsb' 0 21)⟩
  | 0x1 => .ok ⟨0x1fffff#32, .endW g⟩
  | 0x2 => .ok ⟨0x1fff#32, .tkset g (w.extractLsb' 15 6) (w.getLsbD 14) (w.getLsbD 13)⟩
  | 0x3 => .ok ⟨0x1fff#32, .tkchk g (w.extractLsb' 15 6) (w.getLsbD 14) (w.getLsbD 13)⟩
  | 0x4 =>
    if w.extractLsb' 19 2 == 0#2 then .ok ⟨0x7fffe#32, .mark g (w.extractLsb' 0 1 ++ p)⟩
    else .error 2
  | 0x5 => match strmOf (w.extractLsb' 19 2) with
    | some m => .ok ⟨0x7fffe#32, .fork g m (w.extractLsb' 0 1 ++ p)⟩
    | none => .error 2
  | 0x6 => .ok ⟨0x3ffff#32, .join g (w.extractLsb' 18 3)⟩
  | 0x7 => .ok ⟨0x1fffff#32, .yieldW g⟩
  | 0x8 =>
    if w.extractLsb' 16 1 == 0#1 then .ok ⟨0x0#32, .brb g (w.extractLsb' 17 4) (w.extractLsb' 0 16)⟩
    else if w.extractLsb' 16 1 == 1#1 then .ok ⟨0x0#32, .brbN g (w.extractLsb' 17 4) (w.extractLsb' 0 16)⟩
    else .error 2
  | 0x9 => .ok ⟨0x0#32, .loop g (w.extractLsb' 15 6) (w.extractLsb' 12 3) (w.extractLsb' 0 12)⟩
  | 0xa => .ok ⟨0x0#32, .jmp (w.extractLsb' 0 21)⟩
  | 0xb => .ok ⟨0x0#32, .call (w.extractLsb' 0 21)⟩
  | 0xc => .ok ⟨0x1fffff#32, .ret⟩
  | 0xd => .ok ⟨0x1fff#32, .trap g (w.extractLsb' 13 8)⟩
  | 0xe => .ok ⟨0x1fffff#32, .eret g⟩
  | 0x10 =>
    if w.extractLsb' 0 3 == 0#3 then .ok ⟨0x0#32, .add g (w.extractLsb' 15 6) (w.extractLsb' 9 6) (w.extractLsb' 3 6)⟩
    else if w.extractLsb' 0 3 == 1#3 then .ok ⟨0x0#32, .sub g (w.extractLsb' 15 6) (w.extractLsb' 9 6) (w.extractLsb' 3 6)⟩
    else if w.extractLsb' 0 3 == 2#3 then .ok ⟨0x0#32, .andR g (w.extractLsb' 15 6) (w.extractLsb' 9 6) (w.extractLsb' 3 6)⟩
    else if w.extractLsb' 0 3 == 3#3 then .ok ⟨0x0#32, .orR g (w.extractLsb' 15 6) (w.extractLsb' 9 6) (w.extractLsb' 3 6)⟩
    else if w.extractLsb' 0 3 == 4#3 then .ok ⟨0x0#32, .xorR g (w.extractLsb' 15 6) (w.extractLsb' 9 6) (w.extractLsb' 3 6)⟩
    else if w.extractLsb' 0 3 == 5#3 then .ok ⟨0x0#32, .shl g (w.extractLsb' 15 6) (w.extractLsb' 9 6) (w.extractLsb' 3 6)⟩
    else if w.extractLsb' 0 3 == 6#3 then .ok ⟨0x0#32, .shr g (w.extractLsb' 15 6) (w.extractLsb' 9 6) (w.extractLsb' 3 6)⟩
    else if w.extractLsb' 0 3 == 7#3 then .ok ⟨0x0#32, .sra g (w.extractLsb' 15 6) (w.extractLsb' 9 6) (w.extractLsb' 3 6)⟩
    else .error 2
  | 0x11 => .ok ⟨0x0#32, .addi g (w.extractLsb' 15 6) (w.extractLsb' 9 6) (w.extractLsb' 0 9)⟩
  | 0x12 => .ok ⟨0x0#32, .andi g (w.extractLsb' 15 6) (w.extractLsb' 9 6) (w.extractLsb' 0 9)⟩
  | 0x13 => .ok ⟨0x0#32, .ori g (w.extractLsb' 15 6) (w.extractLsb' 9 6) (w.extractLsb' 0 9)⟩
  | 0x14 => .ok ⟨0x0#32, .shli g (w.extractLsb' 15 6) (w.extractLsb' 9 6) (w.extractLsb' 0 9)⟩
  | 0x15 => .ok ⟨0x0#32, .shri g (w.extractLsb' 15 6) (w.extractLsb' 9 6) (w.extractLsb' 0 9)⟩
  | 0x16 => .ok ⟨0x0#32, .srai g (w.extractLsb' 15 6) (w.extractLsb' 9 6) (w.extractLsb' 0 9)⟩
  | 0x17 => .ok ⟨0x0#32, .xori g (w.extractLsb' 15 6) (w.extractLsb' 9 6) (w.extractLsb' 0 9)⟩
  | 0x18 =>
    if w.extractLsb' 0 3 == 0#3 then .ok ⟨0x0#32, .mul g (w.extractLsb' 15 6) (w.extractLsb' 9 6) (w.extractLsb' 3 6)⟩
    else if w.extractLsb' 0 3 == 1#3 then .ok ⟨0x0#32, .mulh g (w.extractLsb' 15 6) (w.extractLsb' 9 6) (w.extractLsb' 3 6)⟩
    else if w.extractLsb' 0 3 == 2#3 then .ok ⟨0x0#32, .mulhu g (w.extractLsb' 15 6) (w.extractLsb' 9 6) (w.extractLsb' 3 6)⟩
    else if w.extractLsb' 0 3 == 3#3 then .ok ⟨0x0#32, .divS g (w.extractLsb' 15 6) (w.extractLsb' 9 6) (w.extractLsb' 3 6)⟩
    else if w.extractLsb' 0 3 == 4#3 then .ok ⟨0x0#32, .divu g (w.extractLsb' 15 6) (w.extractLsb' 9 6) (w.extractLsb' 3 6)⟩
    else if w.extractLsb' 0 3 == 5#3 then .ok ⟨0x0#32, .rem g (w.extractLsb' 15 6) (w.extractLsb' 9 6) (w.extractLsb' 3 6)⟩
    else if w.extractLsb' 0 3 == 6#3 then .ok ⟨0x0#32, .remu g (w.extractLsb' 15 6) (w.extractLsb' 9 6) (w.extractLsb' 3 6)⟩
    else .error 2
  | 0x19 =>
    if w.extractLsb' 19 2 == 0#2 && w.extractLsb' 0 3 == 0#3 then .ok ⟨0x0#32, .cmpEq g (w.extractLsb' 15 4) (w.extractLsb' 9 6) (w.extractLsb' 3 6)⟩
    else if w.extractLsb' 19 2 == 0#2 && w.extractLsb' 0 3 == 1#3 then .ok ⟨0x0#32, .cmpNe g (w.extractLsb' 15 4) (w.extractLsb' 9 6) (w.extractLsb' 3 6)⟩
    else if w.extractLsb' 19 2 == 0#2 && w.extractLsb' 0 3 == 2#3 then .ok ⟨0x0#32, .cmpLt g (w.extractLsb' 15 4) (w.extractLsb' 9 6) (w.extractLsb' 3 6)⟩
    else if w.extractLsb' 19 2 == 0#2 && w.extractLsb' 0 3 == 3#3 then .ok ⟨0x0#32, .cmpGe g (w.extractLsb' 15 4) (w.extractLsb' 9 6) (w.extractLsb' 3 6)⟩
    else if w.extractLsb' 19 2 == 0#2 && w.extractLsb' 0 3 == 4#3 then .ok ⟨0x0#32, .cmpLtu g (w.extractLsb' 15 4) (w.extractLsb' 9 6) (w.extractLsb' 3 6)⟩
    else if w.extractLsb' 19 2 == 0#2 && w.extractLsb' 0 3 == 5#3 then .ok ⟨0x0#32, .cmpGeu g (w.extractLsb' 15 4) (w.extractLsb' 9 6) (w.extractLsb' 3 6)⟩
    else .error 2
  | 0x1a =>
    if w.extractLsb' 14 3 == 0#3 then .ok ⟨0x0#32, .cmpiEq g (w.extractLsb' 17 4) (w.extractLsb' 8 6) (w.extractLsb' 0 8)⟩
    else if w.extractLsb' 14 3 == 1#3 then .ok ⟨0x0#32, .cmpiNe g (w.extractLsb' 17 4) (w.extractLsb' 8 6) (w.extractLsb' 0 8)⟩
    else if w.extractLsb' 14 3 == 2#3 then .ok ⟨0x0#32, .cmpiLt g (w.extractLsb' 17 4) (w.extractLsb' 8 6) (w.extractLsb' 0 8)⟩
    else if w.extractLsb' 14 3 == 3#3 then .ok ⟨0x0#32, .cmpiGe g (w.extractLsb' 17 4) (w.extractLsb' 8 6) (w.extractLsb' 0 8)⟩
    else if w.extractLsb' 14 3 == 4#3 then .ok ⟨0x0#32, .cmpiLtu g (w.extractLsb' 17 4) (w.extractLsb' 8 6) (w.extractLsb' 0 8)⟩
    else if w.extractLsb' 14 3 == 5#3 then .ok ⟨0x0#32, .cmpiGeu g (w.extractLsb' 17 4) (w.extractLsb' 8 6) (w.extractLsb' 0 8)⟩
    else .error 2
  | 0x1b =>
    if w.extractLsb' 19 2 == 0#2 && w.extractLsb' 13 2 == 0#2 && w.extractLsb' 7 2 == 0#2 && w.extractLsb' 0 3 == 0#3 then .ok ⟨0x0#32, .pand g (w.extractLsb' 15 4) (w.extractLsb' 9 4) (w.extractLsb' 3 4)⟩
    else if w.extractLsb' 19 2 == 0#2 && w.extractLsb' 13 2 == 0#2 && w.extractLsb' 7 2 == 0#2 && w.extractLsb' 0 3 == 1#3 then .ok ⟨0x0#32, .por g (w.extractLsb' 15 4) (w.extractLsb' 9 4) (w.extractLsb' 3 4)⟩
    else if w.extractLsb' 19 2 == 0#2 && w.extractLsb' 13 2 == 0#2 && w.extractLsb' 7 2 == 0#2 && w.extractLsb' 0 3 == 2#3 then .ok ⟨0x0#32, .pxor g (w.extractLsb' 15 4) (w.extractLsb' 9 4) (w.extractLsb' 3 4)⟩
    else if w.extractLsb' 19 2 == 0#2 && w.extractLsb' 13 2 == 0#2 && w.extractLsb' 7 2 == 0#2 && w.extractLsb' 0 3 == 3#3 then .ok ⟨0x0#32, .pandn g (w.extractLsb' 15 4) (w.extractLsb' 9 4) (w.extractLsb' 3 4)⟩
    else if w.extractLsb' 19 2 == 0#2 && w.extractLsb' 13 2 == 0#2 && w.extractLsb' 7 2 == 0#2 && w.extractLsb' 0 3 == 4#3 then .ok ⟨0x0#32, .porn g (w.extractLsb' 15 4) (w.extractLsb' 9 4) (w.extractLsb' 3 4)⟩
    else if w.extractLsb' 19 2 == 0#2 && w.extractLsb' 13 2 == 0#2 && w.extractLsb' 7 2 == 0#2 && w.extractLsb' 0 3 == 5#3 then .ok ⟨0x78#32, .pnot g (w.extractLsb' 15 4) (w.extractLsb' 9 4)⟩
    else .error 2
  | 0x1c => .ok ⟨0x0#32, .addiL g (w.extractLsb' 15 6) (w.extractLsb' 9 6) (p ++ w.extractLsb' 0 9)⟩
  | 0x1d => .ok ⟨0x0#32, .oriL g (w.extractLsb' 15 6) (w.extractLsb' 9 6) (p ++ w.extractLsb' 0 9)⟩
  | 0x20 => .ok ⟨0x0#32, .ldsSp g (w.extractLsb' 15 6) (w.extractLsb' 9 6) (w.extractLsb' 7 2) (w.extractLsb' 0 7)⟩
  | 0x21 => .ok ⟨0x0#32, .ldsLoft g (w.extractLsb' 15 6) (w.extractLsb' 9 6) (w.extractLsb' 7 2) (w.extractLsb' 0 7)⟩
  | 0x22 => .ok ⟨0x0#32, .ldsHbm g (w.extractLsb' 15 6) (w.extractLsb' 9 6) (w.extractLsb' 7 2) (w.extractLsb' 0 7)⟩
  | 0x23 => .ok ⟨0x0#32, .ldsPeer g (w.extractLsb' 15 6) (w.extractLsb' 9 6) (w.extractLsb' 7 2) (w.extractLsb' 0 7)⟩
  | 0x24 => .ok ⟨0x0#32, .ldsHost g (w.extractLsb' 15 6) (w.extractLsb' 9 6) (w.extractLsb' 7 2) (w.extractLsb' 0 7)⟩
  | 0x25 =>
    if w.extractLsb' 19 2 == 0#2 then .ok ⟨0x0#32, .ldpSp g (w.extractLsb' 15 4) (w.extractLsb' 9 6) (w.extractLsb' 7 2) (w.extractLsb' 0 7)⟩
    else .error 2
  | 0x26 =>
    if w.extractLsb' 19 2 == 0#2 then .ok ⟨0x0#32, .ldpHbm g (w.extractLsb' 15 4) (w.extractLsb' 9 6) (w.extractLsb' 7 2) (w.extractLsb' 0 7)⟩
    else .error 2
  | 0x27 => .ok ⟨0x0#32, .wrsSp g (w.extractLsb' 15 6) (w.extractLsb' 9 6) (w.extractLsb' 7 2) (w.extractLsb' 0 7)⟩
  | 0x28 => .ok ⟨0x0#32, .wrsHost g (w.extractLsb' 15 6) (w.extractLsb' 9 6) (w.extractLsb' 7 2) (w.extractLsb' 0 7)⟩
  | 0x29 => .ok ⟨0x1f8180#32, .pfh g (w.extractLsb' 9 6) (w.extractLsb' 0 7)⟩
  | 0x30 => .ok ⟨0x3ff#32, .hbind g (w.extractLsb' 16 5) (w.extractLsb' 10 6)⟩
  | 0x31 => .ok ⟨0xffff#32, .hunbind g (w.extractLsb' 16 5)⟩
  | 0x32 => .ok ⟨0xf#32, .hset g (w.extractLsb' 16 5) (w.extractLsb' 10 6) (w.extractLsb' 4 6)⟩
  | 0x33 => .ok ⟨0xf#32, .hget g (w.extractLsb' 16 5) (w.extractLsb' 10 6) (w.extractLsb' 4 6)⟩
  | 0x34 =>
    if w.extractLsb' 2 13 == 0#13 then .ok ⟨0x0#32, .evrdRead g (w.extractLsb' 15 6) (w.extractLsb' 0 2)⟩
    else if w.extractLsb' 0 15 == 4#15 then .ok ⟨0x0#32, .evrdRemove g (w.extractLsb' 15 6)⟩
    else if w.extractLsb' 0 15 == 5#15 then .ok ⟨0x0#32, .evrdCount g (w.extractLsb' 15 6)⟩
    else .error 2
  | 0x35 => .ok ⟨0x1fffff#32, .evwait g⟩
  | 0x36 => .ok ⟨0x0#32, .csrr g (w.extractLsb' 15 6) (w.extractLsb' 0 15)⟩
  | 0x37 => .ok ⟨0x0#32, .csrw g (w.extractLsb' 15 6) (w.extractLsb' 0 15)⟩
  | 0x38 =>
    if w.extractLsb' 0 15 == 0#15 then .ok ⟨0x0#32, .ccntCount g (w.extractLsb' 15 6)⟩
    else if w.extractLsb' 0 15 == 1#15 then .ok ⟨0x0#32, .ccntLegTick g (w.extractLsb' 15 6)⟩
    else .error 2
  | 0x39 => .ok ⟨0x0#32, .kopen g (w.extractLsb' 13 8) (w.extractLsb' 0 13) p⟩
  | 0x3a => .ok ⟨0x1fe000#32, .kclose g (w.extractLsb' 0 13)⟩
  | 0x3b => .ok ⟨0x1fffff#32, .pace g⟩
  | 0x3c => .ok ⟨0x0#32, .lstat g (w.extractLsb' 15 6) (w.extractLsb' 0 15)⟩
  | 0x3d => .ok ⟨0x3ff#32, .xfence g (w.extractLsb' 18 3) (w.extractLsb' 15 3) (w.extractLsb' 10 5)⟩
  | 0x3e => .ok ⟨0x1fff#32, .brk g (w.extractLsb' 13 8)⟩
  | 0x3f =>
    if w.extractLsb' 0 15 == 0#15 then .ok ⟨0x0#32, .trig g (w.extractLsb' 15 6)⟩
    else .error 2
  | 0x40 => .ok ⟨0x0#32, .fuserd g (w.extractLsb' 15 6) (w.extractLsb' 0 15)⟩
  | 0x41 => .ok ⟨0x1fffff#32, .keywipe g⟩
  | 0x42 => .ok ⟨0x1fffff#32, .dbgopen g⟩
  | 0x43 => .ok ⟨0x0#32, .measure g (w.extractLsb' 15 6) (w.extractLsb' 0 15)⟩
  | 0x44 =>
    if w.extractLsb' 0 15 == 0#15 then .ok ⟨0x0#32, .spoorMarker g (w.extractLsb' 15 6)⟩
    else if w.extractLsb' 0 15 == 1#15 then .ok ⟨0x0#32, .spoorClassMask g (w.extractLsb' 15 6)⟩
    else .error 2
  | _ => .error 1

/-- The VX map and layouts (R41–R44). -/
def vxForm (w : IWord) (t : Option (BitVec 21)) (p : BitVec 21) : Except Nat Form :=
  let g := idleOf w
  match (opOf w).toNat with
  | 0x0 => .ok ⟨0x0#32, .idle g (w.extractLsb' 0 21)⟩
  | 0x1 => .ok ⟨0x1fffff#32, .endW g⟩
  | 0x2 => .ok ⟨0x1fff#32, .tkset g (w.extractLsb' 15 6) (w.getLsbD 14) (w.getLsbD 13)⟩
  | 0x3 => .ok ⟨0x1fff#32, .tkchk g (w.extractLsb' 15 6) (w.getLsbD 14) (w.getLsbD 13)⟩
  | 0x4 =>
    if w.extractLsb' 19 2 == 0#2 then .ok ⟨0x7fffe#32, .mark g (w.extractLsb' 0 1 ++ p)⟩
    else .error 2
  | 0x5 => .ok ⟨0x0#32, .rep g (w.extractLsb' 12 9) (w.extractLsb' 0 12)⟩
  | 0x6 => .ok ⟨0xffff#32, .vshape g (w.extractLsb' 16 5)⟩
  | 0x10 => .ok ⟨0x0#32, .vadd g (w.extractLsb' 0 3) (w.extractLsb' 15 6) (w.extractLsb' 9 6) (w.extractLsb' 3 6) (t.map vtailOf)⟩
  | 0x11 => .ok ⟨0x0#32, .vsub g (w.extractLsb' 0 3) (w.extractLsb' 15 6) (w.extractLsb' 9 6) (w.extractLsb' 3 6) (t.map vtailOf)⟩
  | 0x12 => .ok ⟨0x0#32, .vmul g (w.extractLsb' 0 3) (w.extractLsb' 15 6) (w.extractLsb' 9 6) (w.extractLsb' 3 6) (t.map vtailOf)⟩
  | 0x13 => .ok ⟨0x0#32, .vfma g (w.extractLsb' 0 3) (w.extractLsb' 15 6) (w.extractLsb' 9 6) (w.extractLsb' 3 6) (t.map vtailOf)⟩
  | 0x14 => .ok ⟨0x0#32, .vfms g (w.extractLsb' 0 3) (w.extractLsb' 15 6) (w.extractLsb' 9 6) (w.extractLsb' 3 6) (t.map vtailOf)⟩
  | 0x15 => .ok ⟨0x0#32, .vfnma g (w.extractLsb' 0 3) (w.extractLsb' 15 6) (w.extractLsb' 9 6) (w.extractLsb' 3 6) (t.map vtailOf)⟩
  | 0x16 => .ok ⟨0x0#32, .vmax g (w.extractLsb' 0 3) (w.extractLsb' 15 6) (w.extractLsb' 9 6) (w.extractLsb' 3 6) (t.map vtailOf)⟩
  | 0x17 => .ok ⟨0x0#32, .vmin g (w.extractLsb' 0 3) (w.extractLsb' 15 6) (w.extractLsb' 9 6) (w.extractLsb' 3 6) (t.map vtailOf)⟩
  | 0x18 => .ok ⟨0x1f8#32, .vabs g (w.extractLsb' 0 3) (w.extractLsb' 15 6) (w.extractLsb' 9 6) (t.map vtailOf)⟩
  | 0x19 => .ok ⟨0x1f8#32, .vneg g (w.extractLsb' 0 3) (w.extractLsb' 15 6) (w.extractLsb' 9 6) (t.map vtailOf)⟩
  | 0x1a =>
    if w.extractLsb' 18 3 == 0#3 then .ok ⟨0x0#32, .vcmp g (w.extractLsb' 0 3) (w.extractLsb' 15 3) (w.extractLsb' 9 6) (w.extractLsb' 3 6) (vtailOf p)⟩
    else .error 2
  | 0x1b => .ok ⟨0x0#32, .vsel g (w.extractLsb' 0 3) (w.extractLsb' 15 6) (w.extractLsb' 9 6) (w.extractLsb' 3 6) (t.map vtailOf)⟩
  | 0x1c => .ok ⟨0x1f8#32, .vmov g (w.extractLsb' 0 3) (w.extractLsb' 15 6) (w.extractLsb' 9 6) (t.map vtailOf)⟩
  | 0x1d => .ok ⟨0x1f8#32, .vbcast g (w.extractLsb' 0 3) (w.extractLsb' 15 6) (w.extractLsb' 9 6) (t.map vtailOf)⟩
  | 0x20 => .ok ⟨0x0#32, .viadd g (w.extractLsb' 0 3) (w.extractLsb' 15 6) (w.extractLsb' 9 6) (w.extractLsb' 3 6) (t.map vtailOf)⟩
  | 0x21 => .ok ⟨0x0#32, .visub g (w.extractLsb' 0 3) (w.extractLsb' 15 6) (w.extractLsb' 9 6) (w.extractLsb' 3 6) (t.map vtailOf)⟩
  | 0x22 => .ok ⟨0x0#32, .vimul g (w.extractLsb' 0 3) (w.extractLsb' 15 6) (w.extractLsb' 9 6) (w.extractLsb' 3 6) (t.map vtailOf)⟩
  | 0x23 => .ok ⟨0x0#32, .vimac g (w.extractLsb' 0 3) (w.extractLsb' 15 6) (w.extractLsb' 9 6) (w.extractLsb' 3 6) (t.map vtailOf)⟩
  | 0x24 => .ok ⟨0x0#32, .vand g (w.extractLsb' 0 3) (w.extractLsb' 15 6) (w.extractLsb' 9 6) (w.extractLsb' 3 6) (t.map vtailOf)⟩
  | 0x25 => .ok ⟨0x0#32, .vor g (w.extractLsb' 0 3) (w.extractLsb' 15 6) (w.extractLsb' 9 6) (w.extractLsb' 3 6) (t.map vtailOf)⟩
  | 0x26 => .ok ⟨0x0#32, .vxor g (w.extractLsb' 0 3) (w.extractLsb' 15 6) (w.extractLsb' 9 6) (w.extractLsb' 3 6) (t.map vtailOf)⟩
  | 0x27 => .ok ⟨0x1f8#32, .vnot g (w.extractLsb' 0 3) (w.extractLsb' 15 6) (w.extractLsb' 9 6) (t.map vtailOf)⟩
  | 0x28 => .ok ⟨0x0#32, .vshl g (w.extractLsb' 0 3) (w.extractLsb' 15 6) (w.extractLsb' 9 6) (w.extractLsb' 3 6) (t.map vtailOf)⟩
  | 0x29 => .ok ⟨0x0#32, .vshr g (w.extractLsb' 0 3) (w.extractLsb' 15 6) (w.extractLsb' 9 6) (w.extractLsb' 3 6) (t.map vtailOf)⟩
  | 0x2a => .ok ⟨0x0#32, .vsra g (w.extractLsb' 0 3) (w.extractLsb' 15 6) (w.extractLsb' 9 6) (w.extractLsb' 3 6) (t.map vtailOf)⟩
  | 0x2b => .ok ⟨0x0#32, .vimax g (w.extractLsb' 0 3) (w.extractLsb' 15 6) (w.extractLsb' 9 6) (w.extractLsb' 3 6) (t.map vtailOf)⟩
  | 0x2c => .ok ⟨0x0#32, .vimin g (w.extractLsb' 0 3) (w.extractLsb' 15 6) (w.extractLsb' 9 6) (w.extractLsb' 3 6) (t.map vtailOf)⟩
  | 0x2d =>
    if w.extractLsb' 18 3 == 0#3 then .ok ⟨0x0#32, .vicmp g (w.extractLsb' 0 3) (w.extractLsb' 15 3) (w.extractLsb' 9 6) (w.extractLsb' 3 6) (vtailOf p)⟩
    else .error 2
  | 0x30 => .ok ⟨0x0#32, .vcvt g (w.extractLsb' 0 3) (w.extractLsb' 15 6) (w.extractLsb' 9 6) (w.extractLsb' 3 6) (vtailOf p)⟩
  | 0x31 => .ok ⟨0x0#32, .vcvtef g (w.extractLsb' 0 3) (w.extractLsb' 15 6) (w.extractLsb' 9 6) (w.extractLsb' 3 6) (vtailOf p)⟩
  | 0x32 => .ok ⟨0x1f8#32, .vrsum g (w.extractLsb' 0 3) (w.extractLsb' 15 6) (w.extractLsb' 9 6) (t.map vtailOf)⟩
  | 0x33 => .ok ⟨0x1f8#32, .vcsum g (w.extractLsb' 0 3) (w.extractLsb' 15 6) (w.extractLsb' 9 6) (t.map vtailOf)⟩
  | 0x34 => .ok ⟨0x1f8#32, .vrmax g (w.extractLsb' 0 3) (w.extractLsb' 15 6) (w.extractLsb' 9 6) (t.map vtailOf)⟩
  | 0x35 => .ok ⟨0x1f8#32, .vcmax g (w.extractLsb' 0 3) (w.extractLsb' 15 6) (w.extractLsb' 9 6) (t.map vtailOf)⟩
  | 0x36 => .ok ⟨0x1f8#32, .vexp2 g (w.extractLsb' 0 3) (w.extractLsb' 15 6) (w.extractLsb' 9 6) (t.map vtailOf)⟩
  | 0x37 => .ok ⟨0x1f8#32, .vlog2 g (w.extractLsb' 0 3) (w.extractLsb' 15 6) (w.extractLsb' 9 6) (t.map vtailOf)⟩
  | 0x38 => .ok ⟨0x1f8#32, .vrcp g (w.extractLsb' 0 3) (w.extractLsb' 15 6) (w.extractLsb' 9 6) (t.map vtailOf)⟩
  | 0x39 => .ok ⟨0x1f8#32, .vrsqrt g (w.extractLsb' 0 3) (w.extractLsb' 15 6) (w.extractLsb' 9 6) (t.map vtailOf)⟩
  | 0x3a => .ok ⟨0x1f8#32, .vexp g (w.extractLsb' 0 3) (w.extractLsb' 15 6) (w.extractLsb' 9 6) (t.map vtailOf)⟩
  | 0x3b => .ok ⟨0x1f8#32, .vlog g (w.extractLsb' 0 3) (w.extractLsb' 15 6) (w.extractLsb' 9 6) (t.map vtailOf)⟩
  | 0x3c => .ok ⟨0x1f8#32, .vtanh g (w.extractLsb' 0 3) (w.extractLsb' 15 6) (w.extractLsb' 9 6) (t.map vtailOf)⟩
  | 0x3d => .ok ⟨0x1f8#32, .vsigm g (w.extractLsb' 0 3) (w.extractLsb' 15 6) (w.extractLsb' 9 6) (t.map vtailOf)⟩
  | 0x40 => .ok ⟨0x0#32, .vperm g (w.extractLsb' 0 3) (w.extractLsb' 15 6) (w.extractLsb' 9 6) (w.extractLsb' 3 6) (t.map vtailOf)⟩
  | 0x41 => .ok ⟨0x1f8#32, .vtrans g (w.extractLsb' 0 3) (w.extractLsb' 15 6) (w.extractLsb' 9 6) (t.map vtailOf)⟩
  | 0x42 => .ok ⟨0x1f8#32, .vpack g (w.extractLsb' 0 3) (w.extractLsb' 15 6) (w.extractLsb' 9 6) (t.map vtailOf)⟩
  | 0x43 => match t with
    | some q => .ok ⟨0x0#32, .vbmm g (w.extractLsb' 0 3) (w.extractLsb' 15 6) (w.extractLsb' 9 6) (w.extractLsb' 3 6) (vtailOf q)⟩
    | none => .error 2
  | 0x44 => .ok ⟨0xf#32, .vkac g (w.extractLsb' 4 6) (w.extractLsb' 10 11 ++ p)⟩
  | _ => .error 1

/-- The MX map and layout (R45, R46). -/
def mxForm (w : IWord) (p : BitVec 21) : Except Nat Form :=
  let g := idleOf w
  match (opOf w).toNat with
  | 0x0 => .ok ⟨0x0#32, .idle g (w.extractLsb' 0 21)⟩
  | 0x1 => .ok ⟨0x1fffff#32, .endW g⟩
  | 0x2 => .ok ⟨0x1fff#32, .tkset g (w.extractLsb' 15 6) (w.getLsbD 14) (w.getLsbD 13)⟩
  | 0x3 => .ok ⟨0x1fff#32, .tkchk g (w.extractLsb' 15 6) (w.getLsbD 14) (w.getLsbD 13)⟩
  | 0x4 =>
    if w.extractLsb' 19 2 == 0#2 then .ok ⟨0x7fffe#32, .mark g (w.extractLsb' 0 1 ++ p)⟩
    else .error 2
  | 0x5 => .ok ⟨0x0#32, .rep g (w.extractLsb' 12 9) (w.extractLsb' 0 12)⟩
  | 0x10 => .ok ⟨0x13800#32, .mwld g (w.getLsbD 20) (w.extractLsb' 17 3) (w.extractLsb' 14 2) (w.extractLsb' 0 11)⟩
  | 0x11 => .ok ⟨0x3f0#32, .mfwd g (w.getLsbD 20) (w.extractLsb' 17 3) (w.getLsbD 16) (w.extractLsb' 14 2) (w.extractLsb' 11 3) (w.getLsbD 10) (w.extractLsb' 0 4)⟩
  | 0x12 =>
    .ok ⟨0xc3f0#32, .mbwd g (w.getLsbD 20) (w.extractLsb' 17 3) (w.getLsbD 16) (w.extractLsb' 11 3) (w.getLsbD 10) (w.extractLsb' 0 4)⟩
  | 0x13 =>
    if w.extractLsb' 0 2 == 0#2 then .ok ⟨0x1fc7fc#32, .msclAct g (w.extractLsb' 11 3)⟩
    else if w.extractLsb' 0 2 == 1#2 then .ok ⟨0x1fc7fc#32, .msclWt0 g (w.extractLsb' 11 3)⟩
    else if w.extractLsb' 0 2 == 2#2 then .ok ⟨0x1fc7fc#32, .msclWt1 g (w.extractLsb' 11 3)⟩
    else if w.extractLsb' 0 2 == 3#2 then .ok ⟨0x1fc7fc#32, .msclAll g (w.extractLsb' 11 3)⟩
    else .error 2
  | 0x14 => .ok ⟨0xfc700#32, .msparse g (w.getLsbD 20) (w.extractLsb' 11 3) (w.extractLsb' 0 8)⟩
  | 0x15 => .ok ⟨0xfffff#32, .mclr g (w.getLsbD 20)⟩
  | 0x16 =>
    if w.extractLsb' 13 1 == 0#1 then .ok ⟨0xfc7e0#32, .mdrain g (w.getLsbD 20) (w.extractLsb' 11 2) (w.getLsbD 4) (w.extractLsb' 0 4)⟩
    else .error 2
  | 0x17 =>
    if w.extractLsb' 15 1 == 0#1 then .ok ⟨0x1000ff#32, .mkfwd g (w.extractLsb' 17 3) (w.getLsbD 16) (w.getLsbD 14) (w.extractLsb' 11 3) (w.getLsbD 10) (w.extractLsb' 8 2)⟩
    else .error 2
  | 0x18 =>
    .ok ⟨0x10c0ff#32, .mkbwd g (w.extractLsb' 17 3) (w.getLsbD 16) (w.extractLsb' 11 3) (w.getLsbD 10) (w.extractLsb' 8 2)⟩
  | 0x19 => .ok ⟨0x1fffc0#32, .mcfg g (w.getLsbD 5) (w.extractLsb' 3 2) (w.extractLsb' 0 3)⟩
  | _ => .error 1

/-- The AX map and layouts (R47, R48). -/
def axForm (w : IWord) (p : BitVec 21) : Except Nat Form :=
  let g := idleOf w
  match (opOf w).toNat with
  | 0x0 => .ok ⟨0x0#32, .idle g (w.extractLsb' 0 21)⟩
  | 0x1 => .ok ⟨0x1fffff#32, .endW g⟩
  | 0x2 => .ok ⟨0x1fff#32, .tkset g (w.extractLsb' 15 6) (w.getLsbD 14) (w.getLsbD 13)⟩
  | 0x3 => .ok ⟨0x1fff#32, .tkchk g (w.extractLsb' 15 6) (w.getLsbD 14) (w.getLsbD 13)⟩
  | 0x4 =>
    if w.extractLsb' 19 2 == 0#2 then .ok ⟨0x7fffe#32, .mark g (w.extractLsb' 0 1 ++ p)⟩
    else .error 2
  | 0x5 => .ok ⟨0x0#32, .rep g (w.extractLsb' 12 9) (w.extractLsb' 0 12)⟩
  | 0x6 => .ok ⟨0xff#32, .repn g (w.extractLsb' 12 9) (w.extractLsb' 8 4)⟩
  | 0x10 =>
    if w.extractLsb' 3 3 == 0#3 then .ok ⟨0x7#32, .aadd g (w.extractLsb' 16 5) (w.extractLsb' 11 5) (w.extractLsb' 6 5)⟩
    else if w.extractLsb' 3 3 == 1#3 then .ok ⟨0x7#32, .asub g (w.extractLsb' 16 5) (w.extractLsb' 11 5) (w.extractLsb' 6 5)⟩
    else if w.extractLsb' 3 3 == 2#3 then .ok ⟨0x7#32, .aand g (w.extractLsb' 16 5) (w.extractLsb' 11 5) (w.extractLsb' 6 5)⟩
    else if w.extractLsb' 3 3 == 3#3 then .ok ⟨0x7#32, .aor g (w.extractLsb' 16 5) (w.extractLsb' 11 5) (w.extractLsb' 6 5)⟩
    else if w.extractLsb' 3 3 == 4#3 then .ok ⟨0x7#32, .axor g (w.extractLsb' 16 5) (w.extractLsb' 11 5) (w.extractLsb' 6 5)⟩
    else if w.extractLsb' 3 3 == 5#3 then .ok ⟨0x7#32, .ashl g (w.extractLsb' 16 5) (w.extractLsb' 11 5) (w.extractLsb' 6 5)⟩
    else if w.extractLsb' 3 3 == 6#3 then .ok ⟨0x7#32, .ashr g (w.extractLsb' 16 5) (w.extractLsb' 11 5) (w.extractLsb' 6 5)⟩
    else if w.extractLsb' 3 3 == 7#3 then .ok ⟨0x7#32, .asra g (w.extractLsb' 16 5) (w.extractLsb' 11 5) (w.extractLsb' 6 5)⟩
    else .error 2
  | 0x11 => .ok ⟨0x0#32, .aaddi g (w.extractLsb' 16 5) (w.extractLsb' 11 5) (w.extractLsb' 0 11)⟩
  | 0x12 => .ok ⟨0x0#32, .aandi g (w.extractLsb' 16 5) (w.extractLsb' 11 5) (w.extractLsb' 0 11)⟩
  | 0x13 => .ok ⟨0x0#32, .ashli g (w.extractLsb' 16 5) (w.extractLsb' 11 5) (w.extractLsb' 0 11)⟩
  | 0x14 => .ok ⟨0x0#32, .ashri g (w.extractLsb' 16 5) (w.extractLsb' 11 5) (w.extractLsb' 0 11)⟩
  | 0x15 => .ok ⟨0x0#32, .aliL g (w.extractLsb' 16 5) (p ++ w.extractLsb' 0 16)⟩
  | 0x16 => .ok ⟨0x0#32, .nli g (w.extractLsb' 17 4) (w.extractLsb' 0 17)⟩
  | 0x17 => .ok ⟨0x0#32, .naddi g (w.extractLsb' 17 4) (w.extractLsb' 13 4) (w.extractLsb' 0 13)⟩
  | 0x18 =>
    if w.extractLsb' 20 1 == 0#1 then .ok ⟨0x7ff#32, .nmov g (w.extractLsb' 16 4) (w.extractLsb' 11 5)⟩
    else .error 2
  | 0x19 =>
    if w.extractLsb' 15 1 == 0#1 then .ok ⟨0x7ff#32, .amov g (w.extractLsb' 16 5) (w.extractLsb' 11 4)⟩
    else .error 2
  | 0x1a => .ok ⟨0x0#32, .aswz g (w.extractLsb' 16 5) (w.extractLsb' 11 5) (w.extractLsb' 0 11)⟩
  | 0x20 => .ok ⟨0x3#32, .cpHbmSp g (w.extractLsb' 16 5) (w.extractLsb' 11 5) (w.extractLsb' 7 4) (w.extractLsb' 2 5)⟩
  | 0x21 => .ok ⟨0x3#32, .cpHbmLoft g (w.extractLsb' 16 5) (w.extractLsb' 11 5) (w.extractLsb' 7 4) (w.extractLsb' 2 5)⟩
  | 0x22 => .ok ⟨0x7f#32, .cpSpLoft g (w.extractLsb' 16 5) (w.extractLsb' 11 5) (w.extractLsb' 7 4)⟩
  | 0x23 => .ok ⟨0x7f#32, .cpSpSp g (w.extractLsb' 16 5) (w.extractLsb' 11 5) (w.extractLsb' 7 4)⟩
  | 0x24 => .ok ⟨0x3#32, .cpPeerSp g (w.extractLsb' 16 5) (w.extractLsb' 11 5) (w.extractLsb' 7 4) (w.extractLsb' 2 5)⟩
  | 0x25 => .ok ⟨0x7f#32, .cpLoftSp g (w.extractLsb' 16 5) (w.extractLsb' 11 5) (w.extractLsb' 7 4)⟩
  | 0x26 => .ok ⟨0x7e#32, .xldHost g (w.extractLsb' 16 5) (w.extractLsb' 11 5) (w.extractLsb' 7 4) (w.getLsbD 0)⟩
  | 0x27 => .ok ⟨0x7e#32, .xstHost g (w.extractLsb' 16 5) (w.extractLsb' 11 5) (w.extractLsb' 7 4) (w.getLsbD 0)⟩
  | 0x28 => .ok ⟨0x7e#32, .xldPool g (w.extractLsb' 16 5) (w.extractLsb' 11 5) (w.extractLsb' 7 4) (w.getLsbD 0)⟩
  | 0x29 => .ok ⟨0x7e#32, .xstPool g (w.extractLsb' 16 5) (w.extractLsb' 11 5) (w.extractLsb' 7 4) (w.getLsbD 0)⟩
  | 0x30 => .ok ⟨0x0#32, .qfdSp g (w.extractLsb' 18 3) (w.extractLsb' 13 5) (w.extractLsb' 9 4) (w.extractLsb' 4 5) (w.getLsbD 3) (w.extractLsb' 0 3)⟩
  | 0x31 => .ok ⟨0x0#32, .qfdHbm g (w.extractLsb' 18 3) (w.extractLsb' 13 5) (w.extractLsb' 9 4) (w.extractLsb' 4 5) (w.getLsbD 3) (w.extractLsb' 0 3)⟩
  | 0x32 => .ok ⟨0x0#32, .qfdPeer g (w.extractLsb' 18 3) (w.extractLsb' 13 5) (w.extractLsb' 9 4) (w.extractLsb' 4 5) (w.getLsbD 3) (w.extractLsb' 0 3)⟩
  | 0x33 =>
    if w.extractLsb' 20 1 == 0#1 then .ok ⟨0x1f0#32, .odrSp g (w.extractLsb' 18 2) (w.extractLsb' 13 5) (w.extractLsb' 9 4) (w.getLsbD 3) (w.extractLsb' 0 3)⟩
    else .error 2
  | 0x40 =>
    if w.extractLsb' 11 5 == 0#5 && w.extractLsb' 0 6 == 0#6 then .ok ⟨0x0#32, .papplyAdd g (w.extractLsb' 16 5) (w.extractLsb' 6 5)⟩
    else if w.extractLsb' 11 5 == 0#5 && w.extractLsb' 0 6 == 1#6 then .ok ⟨0x0#32, .papplySet g (w.extractLsb' 16 5) (w.extractLsb' 6 5)⟩
    else if w.extractLsb' 11 5 == 0#5 && w.extractLsb' 0 6 == 2#6 then .ok ⟨0x0#32, .papplyAddw g (w.extractLsb' 16 5) (w.extractLsb' 6 5)⟩
    else .error 2
  | 0x41 =>
    if w.extractLsb' 11 5 == 0#5 && w.extractLsb' 0 6 == 0#6 then .ok ⟨0x0#32, .pinv g (w.extractLsb' 16 5) (w.extractLsb' 6 5)⟩
    else .error 2
  | 0x42 =>
    if w.extractLsb' 11 5 == 0#5 && w.extractLsb' 0 6 == 0#6 then .ok ⟨0x0#32, .pdrop g (w.extractLsb' 16 5) (w.extractLsb' 6 5)⟩
    else .error 2
  | 0x43 =>
    if w.extractLsb' 11 5 == 0#5 && w.extractLsb' 0 6 == 0#6 then .ok ⟨0x0#32, .pcomm g (w.extractLsb' 16 5) (w.extractLsb' 6 5)⟩
    else .error 2
  | 0x44 =>
    if w.extractLsb' 0 6 == 0#6 then .ok ⟨0x0#32, .ptrans g (w.extractLsb' 16 5) (w.extractLsb' 11 5) (w.extractLsb' 6 5)⟩
    else if w.extractLsb' 0 6 == 1#6 then .ok ⟨0x0#32, .ptransA g (w.extractLsb' 16 5) (w.extractLsb' 11 5) (w.extractLsb' 6 5)⟩
    else .error 2
  | 0x45 =>
    if w.extractLsb' 11 5 == 0#5 && w.extractLsb' 0 6 == 0#6 then .ok ⟨0x0#32, .psquash g (w.extractLsb' 16 5) (w.extractLsb' 6 5)⟩
    else if w.extractLsb' 11 5 == 0#5 && w.extractLsb' 0 6 == 1#6 then .ok ⟨0x0#32, .psquashX g (w.extractLsb' 16 5) (w.extractLsb' 6 5)⟩
    else .error 2
  | 0x46 =>
    if w.extractLsb' 11 5 == 0#5 && w.extractLsb' 0 6 == 0#6 then .ok ⟨0x0#32, .pinfo g (w.extractLsb' 16 5) (w.extractLsb' 6 5)⟩
    else .error 2
  | 0x47 =>
    if w.extractLsb' 11 5 == 0#5 && w.extractLsb' 0 6 == 0#6 then .ok ⟨0x0#32, .plog g (w.extractLsb' 16 5) (w.extractLsb' 6 5)⟩
    else if w.extractLsb' 11 5 == 0#5 && w.extractLsb' 0 6 == 1#6 then .ok ⟨0x0#32, .plogR g (w.extractLsb' 16 5) (w.extractLsb' 6 5)⟩
    else .error 2
  | 0x50 =>
    if w.extractLsb' 0 6 == 0#6 then .ok ⟨0xf800#32, .skinit g (w.extractLsb' 16 5) (w.extractLsb' 6 5)⟩
    else .error 2
  | 0x51 =>
    if w.extractLsb' 0 6 == 0#6 then .ok ⟨0xf800#32, .skupd g (w.extractLsb' 16 5) (w.extractLsb' 6 5)⟩
    else .error 2
  | 0x52 =>
    if w.extractLsb' 0 6 == 0#6 then .ok ⟨0xf800#32, .skqry g (w.extractLsb' 16 5) (w.extractLsb' 6 5)⟩
    else .error 2
  | 0x53 =>
    if w.extractLsb' 0 6 == 0#6 then .ok ⟨0x0#32, .skadd g (w.extractLsb' 16 5) (w.extractLsb' 11 5) (w.extractLsb' 6 5)⟩
    else if w.extractLsb' 0 6 == 1#6 then .ok ⟨0xf800#32, .skaddP g (w.extractLsb' 16 5) (w.extractLsb' 6 5)⟩
    else .error 2
  | 0x54 =>
    if w.extractLsb' 0 6 == 0#6 then .ok ⟨0xf800#32, .skscl g (w.extractLsb' 16 5) (w.extractLsb' 6 5)⟩
    else .error 2
  | 0x55 =>
    if w.extractLsb' 0 6 == 0#6 then .ok ⟨0x0#32, .skopt g (w.extractLsb' 16 5) (w.extractLsb' 11 5) (w.extractLsb' 6 5)⟩
    else .error 2
  | 0x56 =>
    if w.extractLsb' 0 6 == 0#6 then .ok ⟨0xf800#32, .skcpyOut g (w.extractLsb' 16 5) (w.extractLsb' 6 5)⟩
    else if w.extractLsb' 0 6 == 1#6 then .ok ⟨0xf800#32, .skcpyIn g (w.extractLsb' 16 5) (w.extractLsb' 6 5)⟩
    else if w.extractLsb' 0 6 == 2#6 then .ok ⟨0x0#32, .skcpyS g (w.extractLsb' 16 5) (w.extractLsb' 11 5) (w.extractLsb' 6 5)⟩
    else .error 2
  | 0x60 => .ok ⟨0x0#32, .send g (w.extractLsb' 13 8) (w.extractLsb' 8 5) (w.extractLsb' 4 4) (w.extractLsb' 0 4)⟩
  | 0x61 => .ok ⟨0x1f00#32, .recv g (w.extractLsb' 13 8) (w.extractLsb' 4 4) (w.extractLsb' 0 4)⟩
  | 0x62 =>
    if w.extractLsb' 0 4 == 0#4 then .ok ⟨0x0#32, .collSumF32 g (w.extractLsb' 13 8) (w.extractLsb' 8 5) (w.extractLsb' 4 4)⟩
    else if w.extractLsb' 0 4 == 1#4 then .ok ⟨0x0#32, .collSumC32 g (w.extractLsb' 13 8) (w.extractLsb' 8 5) (w.extractLsb' 4 4)⟩
    else if w.extractLsb' 0 4 == 2#4 then .ok ⟨0x0#32, .collMaxF32 g (w.extractLsb' 13 8) (w.extractLsb' 8 5) (w.extractLsb' 4 4)⟩
    else .error 2
  | _ => .error 1

/-! ## Page kinds (R51) -/

/-- The instructions that kind 0 excludes. -/
def kind0Excludes : Instr → Bool
  | .jmp _ | .call _ | .ret => true
  | _ => false

/-- The instructions that kind 1 excludes. -/
def kind1Excludes : Instr → Bool
  | .idle _ _ | .fork _ _ _ | .join _ _ | .mark _ _ | .brb _ _ _ | .brbN _ _ _ | .loop _ _ _ _ => true
  | _ => false

/-- The form of a head in a page of kind k, its payload taken from the next word if that is a tail. -/
def formOf (k : PageKind) (w : IWord) (t : Option (BitVec 21)) : Except Nat Form :=
  match k with
  | .sqTimed | .sqWaypoint => sqForm w (t.getD 0)
  | .vx => vxForm w t (t.getD 0)
  | .mx => mxForm w (t.getD 0)
  | .ax => axForm w (t.getD 0)

/-- The page-kind rules of R51 for one word (reasons 0x09 and 0x0E). -/
def kindDefects (k : PageKind) (w : IWord) (i : Instr) : List Nat :=
  match k with
  | .sqTimed => need (!kind0Excludes i) 0x09
  | .sqWaypoint => need (!kind1Excludes i) 0x09 ++ need (idleOf w == 0) 0x0E
  | _ => []

/-- The lowest reason. -/
def lowest : List Nat → Option Nat
  | [] => none
  | r :: rs => some (rs.foldl min r)

/-- A head as read with the word after it: its instruction, the words it takes, the reasons that the head itself is
refused for, and those that its tail is refused for. -/
structure HeadRead where
  ins : Instr
  words : Nat
  own : List Nat
  tail : List Nat

/-- A head of kind k read with the words after it (R50, R54). A word after it with OP 0x7F is taken as its tail where it
accepts one, and is itself refused where its IDLE field is not zero (R36, R37, log 95). DESIGN CHOICE: a reserved value or an unused bit in a tail's payload refuses the head, whose
word and offset the record gives (log 133). -/
def readHead (k : PageKind) (w : IWord) (rest : List IWord) : Except Nat HeadRead :=
  let t := (rest.head?).filter isTail
  match formOf k w (t.map (fun x => x.extractLsb' 0 21)) with
  | .error r => .error r
  | .ok f =>
    let used := tailUse k w != .no && t.isSome
    let lacks := tailUse k w == .must && t.isNone
    .ok { ins := f.ins, words := if used then 2 else 1,
          own := need (w &&& f.zero == 0) 0x03 ++ (if lacks then headDefects f.ins else defects f.ins) ++
            kindDefects k w f.ins ++ need (!lacks) 0x05,
          tail := need (!used || (t.map (fun x => idleOf x == 0)).getD true) 0x04 }

/-- The instruction at the head of a list of words of kind k and how many words it takes, or the reason why none is
there (R50, R54). -/
def decode (k : PageKind) : List IWord → Except Nat (Instr × Nat)
  | [] => .error 0x05
  | w :: rest =>
    if isTail w then .error 0x04
    else
      match readHead k w rest with
      | .error r => .error r
      | .ok h =>
        match lowest (h.own ++ h.tail) with
        | some r => .error r
        | none => .ok (h.ins, h.words)

/-! ## The encoder -/

/-- The words of an instruction, from the tables of R35–R48; a step without a word has none. -/
def encode : Instr → List IWord
  | .idle g w => [head g 0x0#7 w]
  | .endW g => [head g 0x1#7 0#21]
  | .tkset g k st ph => [head g 0x2#7 (k ++ BitVec.ofBool st ++ BitVec.ofBool ph ++ 0#13)]
  | .tkchk g k st ph => [head g 0x3#7 (k ++ BitVec.ofBool st ++ BitVec.ofBool ph ++ 0#13)]
  | .mark g n => [head g 0x4#7 (0#2 ++ 0#18 ++ (n.extractLsb' 21 1)), tailWord (n.extractLsb' 0 21)]
  | .fork g m t => [head g 0x5#7 ((strmCode m) ++ 0#18 ++ (t.extractLsb' 21 1)), tailWord (t.extractLsb' 0 21)]
  | .join g m => [head g 0x6#7 (m ++ 0#18)]
  | .yieldW g => [head g 0x7#7 0#21]
  | .rep g len cnt => [head g 0x5#7 (len ++ cnt)]
  | .repn g len n => [head g 0x6#7 (len ++ n ++ 0#8)]
  | .add g d a b => [head g 0x10#7 (d ++ a ++ b ++ 0#3)]
  | .sub g d a b => [head g 0x10#7 (d ++ a ++ b ++ 1#3)]
  | .andR g d a b => [head g 0x10#7 (d ++ a ++ b ++ 2#3)]
  | .orR g d a b => [head g 0x10#7 (d ++ a ++ b ++ 3#3)]
  | .xorR g d a b => [head g 0x10#7 (d ++ a ++ b ++ 4#3)]
  | .shl g d a b => [head g 0x10#7 (d ++ a ++ b ++ 5#3)]
  | .shr g d a b => [head g 0x10#7 (d ++ a ++ b ++ 6#3)]
  | .sra g d a b => [head g 0x10#7 (d ++ a ++ b ++ 7#3)]
  | .mul g d a b => [head g 0x18#7 (d ++ a ++ b ++ 0#3)]
  | .mulh g d a b => [head g 0x18#7 (d ++ a ++ b ++ 1#3)]
  | .mulhu g d a b => [head g 0x18#7 (d ++ a ++ b ++ 2#3)]
  | .divS g d a b => [head g 0x18#7 (d ++ a ++ b ++ 3#3)]
  | .divu g d a b => [head g 0x18#7 (d ++ a ++ b ++ 4#3)]
  | .rem g d a b => [head g 0x18#7 (d ++ a ++ b ++ 5#3)]
  | .remu g d a b => [head g 0x18#7 (d ++ a ++ b ++ 6#3)]
  | .addi g d a m => [head g 0x11#7 (d ++ a ++ m)]
  | .andi g d a m => [head g 0x12#7 (d ++ a ++ m)]
  | .ori g d a m => [head g 0x13#7 (d ++ a ++ m)]
  | .shli g d a m => [head g 0x14#7 (d ++ a ++ m)]
  | .shri g d a m => [head g 0x15#7 (d ++ a ++ m)]
  | .srai g d a m => [head g 0x16#7 (d ++ a ++ m)]
  | .xori g d a m => [head g 0x17#7 (d ++ a ++ m)]
  | .addiL g d a m => [head g 0x1c#7 (d ++ a ++ (m.extractLsb' 0 9)), tailWord (m.extractLsb' 9 21)]
  | .oriL g d a m => [head g 0x1d#7 (d ++ a ++ (m.extractLsb' 0 9)), tailWord (m.extractLsb' 9 21)]
  | .cmpEq g d a b => [head g 0x19#7 (0#2 ++ d ++ a ++ b ++ 0#3)]
  | .cmpNe g d a b => [head g 0x19#7 (0#2 ++ d ++ a ++ b ++ 1#3)]
  | .cmpLt g d a b => [head g 0x19#7 (0#2 ++ d ++ a ++ b ++ 2#3)]
  | .cmpGe g d a b => [head g 0x19#7 (0#2 ++ d ++ a ++ b ++ 3#3)]
  | .cmpLtu g d a b => [head g 0x19#7 (0#2 ++ d ++ a ++ b ++ 4#3)]
  | .cmpGeu g d a b => [head g 0x19#7 (0#2 ++ d ++ a ++ b ++ 5#3)]
  | .cmpiEq g p a m => [head g 0x1a#7 (p ++ 0#3 ++ a ++ m)]
  | .cmpiNe g p a m => [head g 0x1a#7 (p ++ 1#3 ++ a ++ m)]
  | .cmpiLt g p a m => [head g 0x1a#7 (p ++ 2#3 ++ a ++ m)]
  | .cmpiGe g p a m => [head g 0x1a#7 (p ++ 3#3 ++ a ++ m)]
  | .cmpiLtu g p a m => [head g 0x1a#7 (p ++ 4#3 ++ a ++ m)]
  | .cmpiGeu g p a m => [head g 0x1a#7 (p ++ 5#3 ++ a ++ m)]
  | .pand g d a b => [head g 0x1b#7 (0#2 ++ d ++ 0#2 ++ a ++ 0#2 ++ b ++ 0#3)]
  | .por g d a b => [head g 0x1b#7 (0#2 ++ d ++ 0#2 ++ a ++ 0#2 ++ b ++ 1#3)]
  | .pxor g d a b => [head g 0x1b#7 (0#2 ++ d ++ 0#2 ++ a ++ 0#2 ++ b ++ 2#3)]
  | .pandn g d a b => [head g 0x1b#7 (0#2 ++ d ++ 0#2 ++ a ++ 0#2 ++ b ++ 3#3)]
  | .porn g d a b => [head g 0x1b#7 (0#2 ++ d ++ 0#2 ++ a ++ 0#2 ++ b ++ 4#3)]
  | .pnot g d a => [head g 0x1b#7 (0#2 ++ d ++ 0#2 ++ a ++ 0#6 ++ 5#3)]
  | .brb g p o => [head g 0x8#7 (p ++ 0#1 ++ o)]
  | .brbN g p o => [head g 0x8#7 (p ++ 1#1 ++ o)]
  | .loop g c stg o => [head g 0x9#7 (c ++ stg ++ o)]
  | .jmp o => [head 0#4 0xa#7 o]
  | .call o => [head 0#4 0xb#7 o]
  | .ret => [head 0#4 0xc#7 0#21]
  | .trap g c => [head g 0xd#7 (c ++ 0#13)]
  | .eret g => [head g 0xe#7 0#21]
  | .ldsSp g d a z o => [head g 0x20#7 (d ++ a ++ z ++ o)]
  | .ldsLoft g d a z o => [head g 0x21#7 (d ++ a ++ z ++ o)]
  | .ldsHbm g d a z o => [head g 0x22#7 (d ++ a ++ z ++ o)]
  | .ldsPeer g d a z o => [head g 0x23#7 (d ++ a ++ z ++ o)]
  | .ldsHost g d a z o => [head g 0x24#7 (d ++ a ++ z ++ o)]
  | .ldpSp g d a z o => [head g 0x25#7 (0#2 ++ d ++ a ++ z ++ o)]
  | .ldpHbm g d a z o => [head g 0x26#7 (0#2 ++ d ++ a ++ z ++ o)]
  | .wrsSp g d a z o => [head g 0x27#7 (d ++ a ++ z ++ o)]
  | .wrsHost g d a z o => [head g 0x28#7 (d ++ a ++ z ++ o)]
  | .pfh g a o => [head g 0x29#7 (0#6 ++ a ++ 0#2 ++ o)]
  | .hbind g h a => [head g 0x30#7 (h ++ a ++ 0#10)]
  | .hunbind g h => [head g 0x31#7 (h ++ 0#16)]
  | .hset g h a b => [head g 0x32#7 (h ++ a ++ b ++ 0#4)]
  | .hget g h d b => [head g 0x33#7 (h ++ d ++ b ++ 0#4)]
  | .evrdRead g d w => [head g 0x34#7 (d ++ 0#13 ++ w)]
  | .evrdRemove g d => [head g 0x34#7 (d ++ 4#15)]
  | .evrdCount g d => [head g 0x34#7 (d ++ 5#15)]
  | .evwait g => [head g 0x35#7 0#21]
  | .csrr g d x => [head g 0x36#7 (d ++ x)]
  | .csrw g a x => [head g 0x37#7 (a ++ x)]
  | .ccntCount g d => [head g 0x38#7 (d ++ 0#15)]
  | .ccntLegTick g d => [head g 0x38#7 (d ++ 1#15)]
  | .kopen g hd rg o => [head g 0x39#7 (hd ++ rg), tailWord o]
  | .kclose g rg => [head g 0x3a#7 (0#8 ++ rg)]
  | .pace g => [head g 0x3b#7 0#21]
  | .lstat g d x => [head g 0x3c#7 (d ++ x)]
  | .xfence g ca cb sc => [head g 0x3d#7 (ca ++ cb ++ sc ++ 0#10)]
  | .brk g c => [head g 0x3e#7 (c ++ 0#13)]
  | .trig g a => [head g 0x3f#7 (a ++ 0#15)]
  | .fuserd g d x => [head g 0x40#7 (d ++ x)]
  | .keywipe g => [head g 0x41#7 0#21]
  | .dbgopen g => [head g 0x42#7 0#21]
  | .measure g a x => [head g 0x43#7 (a ++ x)]
  | .spoorMarker g a => [head g 0x44#7 (a ++ 0#15)]
  | .spoorClassMask g a => [head g 0x44#7 (a ++ 1#15)]
  | .vadd g f d a b t => head g 0x10#7 (d ++ a ++ b ++ f) :: vtailWords t
  | .vsub g f d a b t => head g 0x11#7 (d ++ a ++ b ++ f) :: vtailWords t
  | .vmul g f d a b t => head g 0x12#7 (d ++ a ++ b ++ f) :: vtailWords t
  | .vfma g f d a b t => head g 0x13#7 (d ++ a ++ b ++ f) :: vtailWords t
  | .vfms g f d a b t => head g 0x14#7 (d ++ a ++ b ++ f) :: vtailWords t
  | .vfnma g f d a b t => head g 0x15#7 (d ++ a ++ b ++ f) :: vtailWords t
  | .vmax g f d a b t => head g 0x16#7 (d ++ a ++ b ++ f) :: vtailWords t
  | .vmin g f d a b t => head g 0x17#7 (d ++ a ++ b ++ f) :: vtailWords t
  | .vabs g f d a t => head g 0x18#7 (d ++ a ++ 0#6 ++ f) :: vtailWords t
  | .vneg g f d a t => head g 0x19#7 (d ++ a ++ 0#6 ++ f) :: vtailWords t
  | .vcmp g f d a b t => [head g 0x1a#7 (0#3 ++ d ++ a ++ b ++ f), vtailWord t]
  | .vsel g f d a b t => head g 0x1b#7 (d ++ a ++ b ++ f) :: vtailWords t
  | .vmov g f d a t => head g 0x1c#7 (d ++ a ++ 0#6 ++ f) :: vtailWords t
  | .vbcast g f d a t => head g 0x1d#7 (d ++ a ++ 0#6 ++ f) :: vtailWords t
  | .viadd g f d a b t => head g 0x20#7 (d ++ a ++ b ++ f) :: vtailWords t
  | .visub g f d a b t => head g 0x21#7 (d ++ a ++ b ++ f) :: vtailWords t
  | .vimul g f d a b t => head g 0x22#7 (d ++ a ++ b ++ f) :: vtailWords t
  | .vimac g f d a b t => head g 0x23#7 (d ++ a ++ b ++ f) :: vtailWords t
  | .vand g f d a b t => head g 0x24#7 (d ++ a ++ b ++ f) :: vtailWords t
  | .vor g f d a b t => head g 0x25#7 (d ++ a ++ b ++ f) :: vtailWords t
  | .vxor g f d a b t => head g 0x26#7 (d ++ a ++ b ++ f) :: vtailWords t
  | .vnot g f d a t => head g 0x27#7 (d ++ a ++ 0#6 ++ f) :: vtailWords t
  | .vshl g f d a b t => head g 0x28#7 (d ++ a ++ b ++ f) :: vtailWords t
  | .vshr g f d a b t => head g 0x29#7 (d ++ a ++ b ++ f) :: vtailWords t
  | .vsra g f d a b t => head g 0x2a#7 (d ++ a ++ b ++ f) :: vtailWords t
  | .vimax g f d a b t => head g 0x2b#7 (d ++ a ++ b ++ f) :: vtailWords t
  | .vimin g f d a b t => head g 0x2c#7 (d ++ a ++ b ++ f) :: vtailWords t
  | .vicmp g f d a b t => [head g 0x2d#7 (0#3 ++ d ++ a ++ b ++ f), vtailWord t]
  | .vcvt g f d a b t => [head g 0x30#7 (d ++ a ++ b ++ f), vtailWord t]
  | .vcvtef g f d a b t => [head g 0x31#7 (d ++ a ++ b ++ f), vtailWord t]
  | .vrsum g f d a t => head g 0x32#7 (d ++ a ++ 0#6 ++ f) :: vtailWords t
  | .vcsum g f d a t => head g 0x33#7 (d ++ a ++ 0#6 ++ f) :: vtailWords t
  | .vrmax g f d a t => head g 0x34#7 (d ++ a ++ 0#6 ++ f) :: vtailWords t
  | .vcmax g f d a t => head g 0x35#7 (d ++ a ++ 0#6 ++ f) :: vtailWords t
  | .vexp2 g f d a t => head g 0x36#7 (d ++ a ++ 0#6 ++ f) :: vtailWords t
  | .vlog2 g f d a t => head g 0x37#7 (d ++ a ++ 0#6 ++ f) :: vtailWords t
  | .vrcp g f d a t => head g 0x38#7 (d ++ a ++ 0#6 ++ f) :: vtailWords t
  | .vrsqrt g f d a t => head g 0x39#7 (d ++ a ++ 0#6 ++ f) :: vtailWords t
  | .vexp g f d a t => head g 0x3a#7 (d ++ a ++ 0#6 ++ f) :: vtailWords t
  | .vlog g f d a t => head g 0x3b#7 (d ++ a ++ 0#6 ++ f) :: vtailWords t
  | .vtanh g f d a t => head g 0x3c#7 (d ++ a ++ 0#6 ++ f) :: vtailWords t
  | .vsigm g f d a t => head g 0x3d#7 (d ++ a ++ 0#6 ++ f) :: vtailWords t
  | .vperm g f d a b t => head g 0x40#7 (d ++ a ++ b ++ f) :: vtailWords t
  | .vtrans g f d a t => head g 0x41#7 (d ++ a ++ 0#6 ++ f) :: vtailWords t
  | .vpack g f d a t => head g 0x42#7 (d ++ a ++ 0#6 ++ f) :: vtailWords t
  | .vbmm g f d a b t => [head g 0x43#7 (d ++ a ++ b ++ f), vtailWord t]
  | .vkac g a cst => [head g 0x44#7 ((cst.extractLsb' 21 11) ++ a ++ 0#4), tailWord (cst.extractLsb' 0 21)]
  | .vshape g r => [head g 0x6#7 (r ++ 0#16)]
  | .mwld g b f m o => [head g 0x10#7 (BitVec.ofBool b ++ f ++ 0#1 ++ m ++ 0#3 ++ o)]
  | .mfwd g c f o m q u r => [head g 0x11#7 (BitVec.ofBool c ++ f ++ BitVec.ofBool o ++ m ++ q ++ BitVec.ofBool u ++ 0#6 ++ r)]
  | .mbwd g c f o q u r => [head g 0x12#7 (BitVec.ofBool c ++ f ++ BitVec.ofBool o ++ 0#2 ++ q ++ BitVec.ofBool u ++ 0#6 ++ r)]
  | .msclAct g q => [head g 0x13#7 (0#7 ++ q ++ 0#9 ++ 0#2)]
  | .msclWt0 g q => [head g 0x13#7 (0#7 ++ q ++ 0#9 ++ 1#2)]
  | .msclWt1 g q => [head g 0x13#7 (0#7 ++ q ++ 0#9 ++ 2#2)]
  | .msclAll g q => [head g 0x13#7 (0#7 ++ q ++ 0#9 ++ 3#2)]
  | .msparse g b q l => [head g 0x14#7 (BitVec.ofBool b ++ 0#6 ++ q ++ 0#3 ++ l)]
  | .mclr g c => [head g 0x15#7 (BitVec.ofBool c ++ 0#20)]
  | .mdrain g c q z r => [head g 0x16#7 (BitVec.ofBool c ++ 0#6 ++ 0#1 ++ q ++ 0#6 ++ BitVec.ofBool z ++ r)]
  | .mkfwd g f o m q u r => [head g 0x17#7 (0#1 ++ f ++ BitVec.ofBool o ++ 0#1 ++ BitVec.ofBool m ++ q ++ BitVec.ofBool u ++ r ++ 0#8)]
  | .mkbwd g f o q u r => [head g 0x18#7 (0#1 ++ f ++ BitVec.ofBool o ++ 0#2 ++ q ++ BitVec.ofBool u ++ r ++ 0#8)]
  | .mcfg g v r f => [head g 0x19#7 (0#15 ++ BitVec.ofBool v ++ r ++ f)]
  | .aadd g d a b => [head g 0x10#7 (d ++ a ++ b ++ 0#3 ++ 0#3)]
  | .asub g d a b => [head g 0x10#7 (d ++ a ++ b ++ 1#3 ++ 0#3)]
  | .aand g d a b => [head g 0x10#7 (d ++ a ++ b ++ 2#3 ++ 0#3)]
  | .aor g d a b => [head g 0x10#7 (d ++ a ++ b ++ 3#3 ++ 0#3)]
  | .axor g d a b => [head g 0x10#7 (d ++ a ++ b ++ 4#3 ++ 0#3)]
  | .ashl g d a b => [head g 0x10#7 (d ++ a ++ b ++ 5#3 ++ 0#3)]
  | .ashr g d a b => [head g 0x10#7 (d ++ a ++ b ++ 6#3 ++ 0#3)]
  | .asra g d a b => [head g 0x10#7 (d ++ a ++ b ++ 7#3 ++ 0#3)]
  | .aaddi g d a m => [head g 0x11#7 (d ++ a ++ m)]
  | .aandi g d a m => [head g 0x12#7 (d ++ a ++ m)]
  | .ashli g d a m => [head g 0x13#7 (d ++ a ++ m)]
  | .ashri g d a m => [head g 0x14#7 (d ++ a ++ m)]
  | .aliL g d m => [head g 0x15#7 (d ++ (m.extractLsb' 0 16)), tailWord (m.extractLsb' 16 21)]
  | .nli g d m => [head g 0x16#7 (d ++ m)]
  | .naddi g d n m => [head g 0x17#7 (d ++ n ++ m)]
  | .nmov g d a => [head g 0x18#7 (0#1 ++ d ++ a ++ 0#11)]
  | .amov g d n => [head g 0x19#7 (d ++ 0#1 ++ n ++ 0#11)]
  | .aswz g d a m => [head g 0x1a#7 (d ++ a ++ m)]
  | .cpHbmSp g d a n h => [head g 0x20#7 (d ++ a ++ n ++ h ++ 0#2)]
  | .cpHbmLoft g d a n h => [head g 0x21#7 (d ++ a ++ n ++ h ++ 0#2)]
  | .cpSpLoft g d a n => [head g 0x22#7 (d ++ a ++ n ++ 0#7)]
  | .cpSpSp g d a n => [head g 0x23#7 (d ++ a ++ n ++ 0#7)]
  | .cpPeerSp g d a n h => [head g 0x24#7 (d ++ a ++ n ++ h ++ 0#2)]
  | .cpLoftSp g d a n => [head g 0x25#7 (d ++ a ++ n ++ 0#7)]
  | .xldHost g d a n p => [head g 0x26#7 (d ++ a ++ n ++ 0#6 ++ BitVec.ofBool p)]
  | .xstHost g d a n p => [head g 0x27#7 (d ++ a ++ n ++ 0#6 ++ BitVec.ofBool p)]
  | .xldPool g d a n p => [head g 0x28#7 (d ++ a ++ n ++ 0#6 ++ BitVec.ofBool p)]
  | .xstPool g d a n p => [head g 0x29#7 (d ++ a ++ n ++ 0#6 ++ BitVec.ofBool p)]
  | .qfdSp g q a n t o p => [head g 0x30#7 (q ++ a ++ n ++ t ++ BitVec.ofBool o ++ p)]
  | .qfdHbm g q a n h o p => [head g 0x31#7 (q ++ a ++ n ++ h ++ BitVec.ofBool o ++ p)]
  | .qfdPeer g q a n h o p => [head g 0x32#7 (q ++ a ++ n ++ h ++ BitVec.ofBool o ++ p)]
  | .odrSp g q a n o p => [head g 0x33#7 (0#1 ++ q ++ a ++ n ++ 0#5 ++ BitVec.ofBool o ++ p)]
  | .papplyAdd g h a => [head g 0x40#7 (h ++ 0#5 ++ a ++ 0#6)]
  | .papplySet g h a => [head g 0x40#7 (h ++ 0#5 ++ a ++ 1#6)]
  | .papplyAddw g h a => [head g 0x40#7 (h ++ 0#5 ++ a ++ 2#6)]
  | .pinv g h a => [head g 0x41#7 (h ++ 0#5 ++ a ++ 0#6)]
  | .pdrop g h a => [head g 0x42#7 (h ++ 0#5 ++ a ++ 0#6)]
  | .pcomm g h a => [head g 0x43#7 (h ++ 0#5 ++ a ++ 0#6)]
  | .ptrans g h k a => [head g 0x44#7 (h ++ k ++ a ++ 0#6)]
  | .ptransA g h k a => [head g 0x44#7 (h ++ k ++ a ++ 1#6)]
  | .psquash g h a => [head g 0x45#7 (h ++ 0#5 ++ a ++ 0#6)]
  | .psquashX g h a => [head g 0x45#7 (h ++ 0#5 ++ a ++ 1#6)]
  | .pinfo g h a => [head g 0x46#7 (h ++ 0#5 ++ a ++ 0#6)]
  | .plog g h a => [head g 0x47#7 (h ++ 0#5 ++ a ++ 0#6)]
  | .plogR g h a => [head g 0x47#7 (h ++ 0#5 ++ a ++ 1#6)]
  | .skinit g h a => [head g 0x50#7 (h ++ 0#5 ++ a ++ 0#6)]
  | .skupd g h a => [head g 0x51#7 (h ++ 0#5 ++ a ++ 0#6)]
  | .skqry g h a => [head g 0x52#7 (h ++ 0#5 ++ a ++ 0#6)]
  | .skadd g h k a => [head g 0x53#7 (h ++ k ++ a ++ 0#6)]
  | .skaddP g h a => [head g 0x53#7 (h ++ 0#5 ++ a ++ 1#6)]
  | .skscl g h a => [head g 0x54#7 (h ++ 0#5 ++ a ++ 0#6)]
  | .skopt g h k a => [head g 0x55#7 (h ++ k ++ a ++ 0#6)]
  | .skcpyOut g h a => [head g 0x56#7 (h ++ 0#5 ++ a ++ 0#6)]
  | .skcpyIn g h a => [head g 0x56#7 (h ++ 0#5 ++ a ++ 1#6)]
  | .skcpyS g h k a => [head g 0x56#7 (h ++ k ++ a ++ 2#6)]
  | .send g h a n k => [head g 0x60#7 (h ++ a ++ n ++ k)]
  | .recv g h n k => [head g 0x61#7 (h ++ 0#5 ++ n ++ k)]
  | .collSumF32 g h a n => [head g 0x62#7 (h ++ a ++ n ++ 0#4)]
  | .collSumC32 g h a n => [head g 0x62#7 (h ++ a ++ n ++ 1#4)]
  | .collMaxF32 g h a n => [head g 0x62#7 (h ++ a ++ n ++ 2#4)]
  | .leasedResult _ _ => []
  | .accessPerform _ => []
  | .queueEntryReady _ _ _ _ => []
  | .patchPerform _ => []
  | .sketchPerform _ => []
  | .commandRecordWrite _ _ _ _ => []
  | .flitLanding _ _ _ _ _ _ => []
  | .flitArrival _ _ _ => []
  | .collReduce _ _ _ => []
  | .collResultWrite _ _ _ _ _ => []
  | .peerRequest _ _ => []
  | .dispatchLanding _ _ => []
  | .fenceRelease _ _ _ => []
  | .launchForward _ _ _ _ => []
  | .departure _ => []
  | .legDeparture _ _ => []
  | .legOverrun _ _ => []
  | .haltFlit _ _ _ _ _ _ => []
  | .haltStop _ _ _ => []
  | .faultRecordWrite _ _ => []
  | .preemptPending _ => []
  | .contextSaveDone _ => []
  | .resume _ => []
  | .groupHold _ _ _ _ => []
  | .unwindFlit _ _ _ _ => []
  | .kraalUnwind _ _ _ => []
  | .triggerLatch _ => []
  | .lastLegDeadline _ _ => []
  | .yieldListTick _ _ _ => []
  | .launchRecord _ _ _ _ => []
  | .suspPreempt _ _ _ => []
  | .suspReadmit _ _ _ => []
  | .dbell _ _ _ _ => []
  | .release _ _ _ => []
  | .stopc _ _ _ => []
  | .partset _ _ => []
  | .registerWrite _ _ _ => []
  | .mapRequest _ _ => []
  | .unmapRequest _ _ _ _ => []
  | .hostMemoryWrite _ _ _ => []
  | .imageLoad _ _ _ => []
  | .linkDown _ _ => []
  | .thermalTrip _ => []
  | .correctedError _ => []
  | .uncorrectableError _ => []
  | .bringUp _ _ _ _ => []
  | .groupForm _ => []
  | .fuseCommand _ _ => []
  | .rmaCommand _ _ => []
  | .attestationRequest _ _ => []
  | .linkRetrain _ _ => []
  | .unlockToken _ _ _ _ _ => []
  | .frameMap _ _ => []
  | .leadMessage _ _ => []
  | .untimedCompletion _ _ _ _ _ => []
  | .losslessHoldRequest => []
  | .powerCheck => []
  | .bucketLeak => []
  | .paceLoss => []
  | .droverServe => []
  | .queueAging => []
  | .scan => []

/-- The kinds of page in which an instruction may stand, its IDLE field included (R51). -/
def inKind (k : PageKind) (i : Instr) : Bool :=
  match k with
  | .sqTimed => !kind0Excludes i
  | .sqWaypoint => !kind1Excludes i && ((encode i).head?.map (fun w => idleOf w == 0)).getD true
  | _ => true

/-- The streams whose maps have the instruction (R35, R40, R44, R46, R48). -/
def inMap (k : PageKind) : Instr → Bool
  | .idle _ _ | .endW _ | .tkset _ _ _ _ | .tkchk _ _ _ _ | .mark _ _ => true
  | .fork _ _ _ | .join _ _ | .yieldW _ | .add _ _ _ _ | .sub _ _ _ _ | .andR _ _ _ _ | .orR _ _ _ _ | .xorR _ _ _ _
  | .shl _ _ _ _ | .shr _ _ _ _ | .sra _ _ _ _ | .mul _ _ _ _ | .mulh _ _ _ _ | .mulhu _ _ _ _ | .divS _ _ _ _
  | .divu _ _ _ _ | .rem _ _ _ _ | .remu _ _ _ _ | .addi _ _ _ _ | .andi _ _ _ _ | .ori _ _ _ _ | .shli _ _ _ _
  | .shri _ _ _ _ | .srai _ _ _ _ | .xori _ _ _ _ | .addiL _ _ _ _ | .oriL _ _ _ _ | .cmpEq _ _ _ _ | .cmpNe _ _ _ _
  | .cmpLt _ _ _ _ | .cmpGe _ _ _ _ | .cmpLtu _ _ _ _ | .cmpGeu _ _ _ _ | .cmpiEq _ _ _ _ | .cmpiNe _ _ _ _
  | .cmpiLt _ _ _ _ | .cmpiGe _ _ _ _ | .cmpiLtu _ _ _ _ | .cmpiGeu _ _ _ _ | .pand _ _ _ _ | .por _ _ _ _
  | .pxor _ _ _ _ | .pandn _ _ _ _ | .porn _ _ _ _ | .pnot _ _ _ | .brb _ _ _ | .brbN _ _ _ | .loop _ _ _ _ | .jmp _
  | .call _ | .ret | .trap _ _ | .eret _ | .ldsSp _ _ _ _ _ | .ldsLoft _ _ _ _ _ | .ldsHbm _ _ _ _ _
  | .ldsPeer _ _ _ _ _ | .ldsHost _ _ _ _ _ | .ldpSp _ _ _ _ _ | .ldpHbm _ _ _ _ _ | .wrsSp _ _ _ _ _
  | .wrsHost _ _ _ _ _ | .pfh _ _ _ | .hbind _ _ _ | .hunbind _ _ | .hset _ _ _ _ | .hget _ _ _ _ | .evrdRead _ _ _
  | .evrdRemove _ _ | .evrdCount _ _ | .evwait _ | .csrr _ _ _ | .csrw _ _ _ | .ccntCount _ _ | .ccntLegTick _ _
  | .kopen _ _ _ _ | .kclose _ _ | .pace _ | .lstat _ _ _ | .xfence _ _ _ _ | .brk _ _ | .trig _ _ | .fuserd _ _ _
  | .keywipe _ | .dbgopen _ | .measure _ _ _ | .spoorMarker _ _ | .spoorClassMask _ _ => k == .sqTimed || k == .sqWaypoint
  | .rep _ _ _ => k == .vx || k == .mx || k == .ax
  | .repn _ _ _ | .aadd _ _ _ _ | .asub _ _ _ _ | .aand _ _ _ _ | .aor _ _ _ _ | .axor _ _ _ _ | .ashl _ _ _ _
  | .ashr _ _ _ _ | .asra _ _ _ _ | .aaddi _ _ _ _ | .aandi _ _ _ _ | .ashli _ _ _ _ | .ashri _ _ _ _ | .aliL _ _ _
  | .nli _ _ _ | .naddi _ _ _ _ | .nmov _ _ _ | .amov _ _ _ | .aswz _ _ _ _ | .cpHbmSp _ _ _ _ _ | .cpHbmLoft _ _ _ _ _
  | .cpSpLoft _ _ _ _ | .cpSpSp _ _ _ _ | .cpPeerSp _ _ _ _ _ | .cpLoftSp _ _ _ _ | .xldHost _ _ _ _ _
  | .xstHost _ _ _ _ _ | .xldPool _ _ _ _ _ | .xstPool _ _ _ _ _ | .qfdSp _ _ _ _ _ _ _ | .qfdHbm _ _ _ _ _ _ _
  | .qfdPeer _ _ _ _ _ _ _ | .odrSp _ _ _ _ _ _ | .papplyAdd _ _ _ | .papplySet _ _ _ | .papplyAddw _ _ _ | .pinv _ _ _
  | .pdrop _ _ _ | .pcomm _ _ _ | .ptrans _ _ _ _ | .ptransA _ _ _ _ | .psquash _ _ _ | .psquashX _ _ _ | .pinfo _ _ _
  | .plog _ _ _ | .plogR _ _ _ | .skinit _ _ _ | .skupd _ _ _ | .skqry _ _ _ | .skadd _ _ _ _ | .skaddP _ _ _
  | .skscl _ _ _ | .skopt _ _ _ _ | .skcpyOut _ _ _ | .skcpyIn _ _ _ | .skcpyS _ _ _ _ | .send _ _ _ _ _ | .recv _ _ _ _
  | .collSumF32 _ _ _ _ | .collSumC32 _ _ _ _ | .collMaxF32 _ _ _ _ => k == .ax
  | .vadd _ _ _ _ _ _ | .vsub _ _ _ _ _ _ | .vmul _ _ _ _ _ _ | .vfma _ _ _ _ _ _ | .vfms _ _ _ _ _ _
  | .vfnma _ _ _ _ _ _ | .vmax _ _ _ _ _ _ | .vmin _ _ _ _ _ _ | .vabs _ _ _ _ _ | .vneg _ _ _ _ _ | .vcmp _ _ _ _ _ _
  | .vsel _ _ _ _ _ _ | .vmov _ _ _ _ _ | .vbcast _ _ _ _ _ | .viadd _ _ _ _ _ _ | .visub _ _ _ _ _ _
  | .vimul _ _ _ _ _ _ | .vimac _ _ _ _ _ _ | .vand _ _ _ _ _ _ | .vor _ _ _ _ _ _ | .vxor _ _ _ _ _ _ | .vnot _ _ _ _ _
  | .vshl _ _ _ _ _ _ | .vshr _ _ _ _ _ _ | .vsra _ _ _ _ _ _ | .vimax _ _ _ _ _ _ | .vimin _ _ _ _ _ _
  | .vicmp _ _ _ _ _ _ | .vcvt _ _ _ _ _ _ | .vcvtef _ _ _ _ _ _ | .vrsum _ _ _ _ _ | .vcsum _ _ _ _ _
  | .vrmax _ _ _ _ _ | .vcmax _ _ _ _ _ | .vexp2 _ _ _ _ _ | .vlog2 _ _ _ _ _ | .vrcp _ _ _ _ _ | .vrsqrt _ _ _ _ _
  | .vexp _ _ _ _ _ | .vlog _ _ _ _ _ | .vtanh _ _ _ _ _ | .vsigm _ _ _ _ _ | .vperm _ _ _ _ _ _ | .vtrans _ _ _ _ _
  | .vpack _ _ _ _ _ | .vbmm _ _ _ _ _ _ | .vkac _ _ _ | .vshape _ _ => k == .vx
  | .mwld _ _ _ _ _ | .mfwd _ _ _ _ _ _ _ _ | .mbwd _ _ _ _ _ _ _ | .msclAct _ _ | .msclWt0 _ _ | .msclWt1 _ _
  | .msclAll _ _ | .msparse _ _ _ _ | .mclr _ _ | .mdrain _ _ _ _ _ | .mkfwd _ _ _ _ _ _ _ | .mkbwd _ _ _ _ _ _
  | .mcfg _ _ _ _ => k == .mx
  | .leasedResult _ _ | .accessPerform _ | .queueEntryReady _ _ _ _ | .patchPerform _ | .sketchPerform _
  | .commandRecordWrite _ _ _ _ | .flitLanding _ _ _ _ _ _ | .flitArrival _ _ _ | .collReduce _ _ _
  | .collResultWrite _ _ _ _ _ | .peerRequest _ _ | .dispatchLanding _ _ | .fenceRelease _ _ _ | .launchForward _ _ _ _
  | .departure _ | .legDeparture _ _ | .legOverrun _ _ | .haltFlit _ _ _ _ _ _ | .haltStop _ _ _ | .faultRecordWrite _ _
  | .preemptPending _ | .contextSaveDone _ | .resume _ | .groupHold _ _ _ _ | .unwindFlit _ _ _ _ | .kraalUnwind _ _ _
  | .triggerLatch _ | .lastLegDeadline _ _ | .yieldListTick _ _ _ | .launchRecord _ _ _ _ | .suspPreempt _ _ _
  | .suspReadmit _ _ _ | .dbell _ _ _ _ | .release _ _ _ | .stopc _ _ _ | .partset _ _ | .registerWrite _ _ _
  | .mapRequest _ _ | .unmapRequest _ _ _ _ | .hostMemoryWrite _ _ _ | .imageLoad _ _ _ | .linkDown _ _ | .thermalTrip _
  | .correctedError _ | .uncorrectableError _ | .bringUp _ _ _ _ | .groupForm _ | .fuseCommand _ _ | .rmaCommand _ _
  | .attestationRequest _ _ | .linkRetrain _ _ | .unlockToken _ _ _ _ _ | .frameMap _ _ | .leadMessage _ _
  | .untimedCompletion _ _ _ _ _ | .losslessHoldRequest | .powerCheck | .bucketLeak | .paceLoss | .droverServe
  | .queueAging | .scan => false

/-- i is an instruction of pages of kind k (R50, R51). -/
def wordOf (k : PageKind) (i : Instr) : Bool := inMap k i && inKind k i && (defects i).isEmpty

/-! ## A page (R52) -/

/-- The kind of a kind code (R51). -/
def kindOf : Nat → Option PageKind
  | 0 => some .sqTimed | 1 => some .sqWaypoint | 2 => some .vx | 3 => some .mx | 4 => some .ax | _ => none

/-- rep or repn of the streams that have it. -/
def isRep (k : PageKind) (w : IWord) : Bool :=
  match k with
  | .ax => opOf w == 5#7 || opOf w == 6#7
  | .vx | .mx => opOf w == 5#7
  | _ => false

/-- len of a rep or repn head. -/
def repLen (w : IWord) : Nat := (w.extractLsb' 12 9).toNat + 1

/-- A word is a head: its OP requires a tail or accepts one, whether or not one follows (R37, log 95). -/
def isHead (k : PageKind) (w : IWord) : Bool := tailUse k w != .no

/-- Every rep in a list lies wholly in the list, and no further rep lies in its body (R52). -/
def repsWithin (k : PageKind) : List IWord → Bool
  | [] => true
  | w :: rest =>
    (!isRep k w || (repLen w ≤ rest.length && (rest.take (repLen w)).all (fun x => !isRep k x))) && repsWithin k rest

/-- A REP body of `n` words that starts the list, in a page: it lies in the page, holds no end and no mark, does not
end on a head word, and holds at most one further level, wholly inside it (R52). What the body of an inner rep breaks for
itself is that rep's own reason. -/
def bodyOk (k : PageKind) (n : Nat) (ws : List IWord) : Bool :=
  let body := ws.take n
  body.length == n && body.all (fun w => opOf w != 1#7 && opOf w != 4#7) &&
    !(body.getLast?.map (isHead k)).getD false && repsWithin k body

/-- The in-page target of a transfer, in words from the word itself (R38, R52). -/
def transferOff : Instr → Option Int
  | .brb _ _ o | .brbN _ _ o => some o.toInt
  | .loop _ _ _ o => some o.toInt
  | .jmp o | .call o => some o.toInt
  | .kopen _ _ _ o => some o.toInt
  | _ => none

/-- The checks of R37 and R52 that need the page: `before` holds the words before this one, last first. A head is not the last
word of its page. -/
def pageDefects (k : PageKind) (w : IWord) (i : Instr) (before rest : List IWord) : List Nat :=
  need (!isHead k w || !rest.isEmpty) 0x06 ++ need (!isRep k w || bodyOk k (repLen w) rest) 0x0A ++
    match transferOff i with
    | none => []
    | some off =>
      let target : Option IWord :=
        if off < 0 then before[(-off).toNat - 1]? else (w :: rest)[off.toNat]?
      need (!(target.map isTail).getD false) 0x0B

/-- The scan of a page of kind k from word `idx` on: the failing word at the lowest offset, as (index, word, reason),
or none where every word passes (R52). `tail` says that the word is the tail of an accepted head. -/
def scanFrom (k : PageKind) : Nat → Bool → List IWord → List IWord → Option (Nat × IWord × Nat)
  | _, _, _, [] => none
  | idx, true, before, w :: rest => scanFrom k (idx + 1) false (w :: before) rest
  | idx, false, before, w :: rest =>
    if isTail w then some (idx, w, 0x04)
    else
      match readHead k w rest with
      | .error r => some (idx, w, r)
      | .ok h =>
        match lowest (h.own ++ pageDefects k w h.ins before rest) with
        | some r => some (idx, w, r)
        | none =>
          if h.tail.isEmpty then scanFrom k (idx + 1) (h.words == 2) (w :: before) rest
          else some (idx + 1, rest.headD 0, 0x04)

/-- The scan of a whole page (R52). -/
def scanPage (k : PageKind) (ws : List IWord) : Option (Nat × IWord × Nat) := scanFrom k 0 false [] ws

/-- How many words of a page the checks of its first word look at: those of a pair or of a REP body, or as far as an in-page
target (R52). -/
def firstReach (k : PageKind) : List IWord → Nat
  | [] => 1024
  | w :: rest => match readHead k w rest with
    | .error _ => 1024
    | .ok h => max 1024 ((transferOff h.ins).elim 0 (fun off => off.toNat + 1))

/-- The failure record of R53. -/
def failureRecord (va : Nat) (word : IWord) (offset kind reason : Nat) : BitVec 128 :=
  BitVec.ofNat 64 va ++ word ++ BitVec.ofNat 21 offset ++ BitVec.ofNat 3 kind ++ BitVec.ofNat 8 reason

/-! ## A word of the opcode table -/

/-- The words of an instruction whose bits are w, the first word lowest (R34). -/
def tableWords (nbits w : Nat) : List IWord :=
  if nbits ≤ 32 then [BitVec.ofNat 32 w] else [BitVec.ofNat 32 w, BitVec.ofNat 32 (w >>> 32)]

/-- The kind of page in which the table's word is read: the first, in the order kind 0, kind 1, AX, VX, MX, whose map
has it. A table row does not name its stream (log 4). -/
def tableKind (nbits w : Nat) : Option PageKind :=
  [PageKind.sqTimed, .sqWaypoint, .ax, .vx, .mx].find? (fun k => (decode k (tableWords nbits w)).toOption.isSome)

/-- The instruction the decoder reads from a word of the opcode table (log 4). -/
def decodeTableWord (nbits w : Nat) : Option Instr :=
  match tableKind nbits w with
  | none => none
  | some k =>
    match decode k (tableWords nbits w) with
    | .ok (i, _) => some i
    | .error _ => none

end Sys2Proof
end

