-- ==== Sys2Proof/Machine/State.lean ====
section
/-! DEFINITION. The state of a caravan group of KV7 devices, as plain data: devices, contexts, cores, itineraries and
everything in flight. An association list holds only what differs from its reset value; `get` of an unlisted key
answers the reset value (Ops). -/

namespace Sys2Proof.Machine

/-- Bytes of one space by address, in canonical form: addresses strictly rising, no zero byte listed (log 6). -/
abbrev Memory := List Host.Cell

/-- A table by key. -/
abbrev Assoc (κ α : Type) := List (κ × α)

/-! ## Why a step stops -/

/-- Model-level stops. No fault of the device is one of these: a device fault (R305) is a next state. -/
inductive Fault where
  /-- Raised by `step` when the word at a stream's head is not an instruction. R55: no device meets one, since the
  scanner has checked every executable page. Safe. -/
  | notAnInstruction
  deriving DecidableEq, Repr

/-- Refusals. -/
inductive Refusal where
  /-- The instruction has no meaning in this model yet. Safe. -/
  | notModelled (mnemonic : String)
  deriving DecidableEq, Repr

/-! ## Streams and cores -/

/-- One level of rep or repn (R158, R159): first word of the body, the address after it, iterations still to start. -/
structure Rep where
  first : Nat
  stop : Nat
  left : Nat
  deriving DecidableEq, Repr, Inhabited

/-- Where a stream stands. -/
inductive StreamSt where
  | unforked | running | ended | stopped
  deriving DecidableEq, Repr, Inhabited

/-- One stream (R76, R82, R184). `ready` is the leg tick at which the next word would issue with IDLE 0; `last` the
issue tick of the last word; `occ` and `hold` its O and K = O + e (VX); `issued` the count of that issue. -/
structure Stream where
  st : StreamSt
  pc : Nat
  ready : Nat
  shift : Nat
  last : Nat
  occ : Nat
  hold : Nat
  reps : List Rep
  joined : Bool
  endTick : Nat
  issued : Option Nat
  deriving DecidableEq, Repr, Inhabited

/-- A lease (R77): family as in R307, a range of registers, its holder, the holder's issue tick, ρ, and the count of ρ.
Family 9 is a product's lease of a weight buffer, which only mwld and msparse meet (R210) and a record reports as
family 8. -/
structure Lease where
  fam : Nat
  lo : Nat
  hi : Nat
  eng : Engine
  issue : Nat
  rho : Nat
  till : Nat
  deriving DecidableEq, Repr, Inhabited

/-- An entry of an operand or result queue (R165): its image, its ready tick, the word that made it. Of a word that pushed it
beside other effects, `flags` are those that it alone has set and `before` the tile registers that it wrote as they stood:
an entry that is lost takes them back (R79, R133). -/
structure QEnt where
  tile : Tile
  ready : Nat
  word : WordRef
  flags : BitVec 5
  before : List (Nat × Tile)
  deriving DecidableEq, Repr, Inhabited

/-- The open kraal of a core (R116); `opened` is the count of its kopen. -/
structure Kraal where
  region : BitVec 13
  herd : Nat
  handler : Nat
  opened : Nat
  deriving DecidableEq, Repr, Inhabited

/-- An outstanding HOST or POOL dispatch (R170–R173); `due` is its landing tick d, `issued` the count of its issue. `data`
holds a load's landing buffer, or the bytes that a store has read so far. `chunks` are the aligned 64-byte chunks that
have performed at the completer (R232); `done` says that all have, or that the access failed; `ended` that nothing of
the dispatch is left on the core but the access on its way (R234). -/
structure Dispatch where
  number : Nat
  word : WordRef
  load : Bool
  pool : Bool
  dst : Nat
  src : Nat
  n : Nat
  post : Bool
  due : Nat
  issued : Nat
  data : List Byte
  poison : List Nat
  chunks : List Nat
  done : Bool
  failed : Bool
  ended : Bool
  deriving DecidableEq, Repr, Inhabited

/-- A pending fence (R234): its number on the core, classes, scope, count F, and what is left of `before`, which is
gathered at the end of tick F: accesses of an itinerary, a core and that core. -/
structure Fence where
  number : Nat
  ca : BitVec 3
  cb : BitVec 3
  scope : Nat
  at' : Nat
  before : Option (List (Nat × CoreId × UntimedId))
  deriving DecidableEq, Repr, Inhabited

/-- What a waypoint waits on (R100, R102, R110, R235); a fifth fence waits with what it will be. -/
inductive Wait where
  | none
  | event
  | fence (f : Fence)
  | host (word : WordRef) (addr size : Nat) (dst : Option LoadDst) (v : Reg) (issued : Nat)
  deriving DecidableEq, Repr, Inhabited

/-- An SQ access to HOST that an unwind left on its way to the host: the core no longer waits for it (R234, R313). -/
structure Stray where
  issued : Nat
  addr : Nat
  size : Nat
  load : Bool
  v : Reg
  deriving DecidableEq, Repr, Inhabited

/-- A contribution to a collective that reached the root (R269, R270). -/
structure Contribution where
  job : CollJob
  f : Nat
  bytes : List Byte
  deriving DecidableEq, Repr

/-- A watchpoint (R323). -/
structure Watch where
  base : Reg
  ctl : Reg
  deriving DecidableEq, Repr, Inhabited

/-- The bucket kinds of a core (R315, R316). -/
inductive BucketKind where
  | spBank | tileBank | splitBank | loftSlice | mxRow | mxCol | vxLanes
  deriving DecidableEq, Repr, Inhabited

/-- The counters of stream accounting (R324). -/
structure Counters where
  acc : Vector Reg 16
  tkc : Vector Reg 64
  holdt : Reg
  deriving DecidableEq, Repr

/-- A logical core (R8, R82). The ticks of its streams are leg ticks, and `base` is the count of leg tick 0 (R58); everything
else that names a time here names a count. `before` holds counters and shadows as the previous count left them (R111),
`flagRead` the slot that the last csrr of VX or MX flags wrote, with the pushes due at its count and the flags that each has
set alone (R203), `yieldDue` the listed yield tick that this count is (R75), `unwoundAt` the count of the last unwind (R313),
`split` the poisoned entries of the split buffer as (bank, address) (R94). -/
structure Core where
  -- SQ
  s : Vector Reg 64
  p : BitVec 16
  rrb : BitVec 5
  h : Vector (BitVec 256) 32
  bound : BitVec 32
  flagsVx : BitVec 5
  flagsMx : BitVec 5
  flagsNmu : BitVec 5
  flagRead : Option (Nat × List (WordRef × BitVec 5))
  tvec : Reg
  tepc : Reg
  tcause : BitVec 16
  tstate : Bool
  kraal : Option Kraal
  split : List (Nat × Nat)
  wait : Wait
  -- AX
  a : Vector Reg 32
  n : Vector (BitVec 32) 16
  arb : BitVec 4
  q : Vector (List QEnt) 8
  o : Vector (List QEnt) 4
  dispatches : List Dispatch
  dispatchNo : Nat
  strays : List Stray
  fences : List Fence
  fenceNo : Nat
  ports : List (Nat × Nat)
  captures : List (Nat × Nat)
  pis : List Nat
  -- VX
  t : Vector Tile 48
  m : Vector Lanes 8
  rl : BitVec 5
  latches : Vector Tile 3
  bankWrites : List (Nat × Nat)
  -- MX
  acc : Vector (Vector AccRow 128) 2
  wbuf : Vector WBuf 2
  asc : BitVec 4096
  mcfg : BitVec 11
  arrayFree : Nat
  loftFree : Nat
  controlFree : Nat
  -- the core
  tkState : BitVec 64
  tkPhase : BitVec 64
  tr : Vector (BitVec 16) 16
  colls : List Contribution
  leases : List Lease
  accessesTill : Nat
  unlandedTill : Nat
  sq : Stream
  ax : Stream
  vx : Stream
  mx : Stream
  counters : Counters
  shadows : Counters
  before : Counters × Counters
  watches : Vector Watch 4
  spoorMask : BitVec 6
  buckets : Assoc (BucketKind × Nat) (BitVec 16)
  sp : Memory
  loft : Memory
  spPoison : List Nat
  loftPoison : List Nat
  -- where it stands in its itinerary
  run : Option Nat
  member : Nat
  leg : Nat
  base : Nat
  waypoint : Bool
  yielded : Option Nat
  yieldDue : Option Nat
  unwoundAt : Option Nat
  reached : Bool
  deriving DecidableEq, Repr

/-! ## Contexts, devices, itineraries, the group -/

/-- A mapped page (R51, R149–R151). `inFlight` counts its pins, `lapsing` holds the counts at which further pins are
released (R106); `seen` is the count from which it is fetchable (R56). -/
structure Page where
  va : Nat
  size : Nat
  frame : Nat
  exec : Option Nat
  writable : Bool
  tensor : Bool
  inFlight : Nat
  lapsing : List Nat
  seen : Nat
  deriving DecidableEq, Repr, Inhabited

/-- A queued launch record (R63, R64): its members as (device, partition), arrival count, count its wait runs from,
whether it is a signed one that came through the physical function (R118, R328), and the PARAMS block of each member as
it stood at the arrival (R29). -/
structure Queued where
  record : BitVec 512
  members : List (Nat × Nat)
  arrived : Nat
  since : Nat
  control : Bool
  params : List Memory
  deriving DecidableEq, Repr, Inhabited

/-- A context on one device (R108, R112, R145, R277–R280, R327). `pending` is the count C of a pre-emption request that has
not been taken (R80), `suspHeld` says that its queue heads are held, `heldAt` the count from which it has stood suspended,
`readmit` that a readmission is pending (R278). -/
structure Ctx where
  pages : List Page
  queues : Vector (List Queued) 4
  record : BitVec 512
  status : Reg
  members : Assoc Nat (BitVec 16)
  suspLast : BitVec 4
  pending : Option Nat
  suspHeld : Bool
  heldAt : Nat
  readmit : Bool
  forwarded : Option (BitVec 512 × List (Nat × Nat))
  evq : List (BitVec 256)
  evqLost : BitVec 32
  evqMsix : Bool
  lossPending : Bool
  seq0 : Nat
  dbellNo : Nat
  hostWin : Reg
  poolWin : Reg
  dlHost : Reg
  dlPool : Reg
  saveArea : Reg
  faultArea : Reg
  brken : Reg
  control : Bool
  images : List ItinImage
  deriving DecidableEq, Repr

/-- One end of a link (R259, R261, R264, R265, R272, R273). `silent` is the count at which the end declares its link down,
where no valid flit arrives any more. -/
structure Link where
  up : Bool
  silent : Option Nat
  classB : Bool
  pdev : BitVec 8
  plink : BitVec 5
  ofs : BitVec 8
  fecc : BitVec 32
  part : Option Nat
  lastEntry : Option Nat
  deriving DecidableEq, Repr, Inhabited

/-- What a partition holds (R63, R308). -/
structure Part where
  run : Option Nat
  halted : Bool
  deriving DecidableEq, Repr, Inhabited

/-- What a mapping request asks for (R52, R56, R61, R150): a page, a frame that is zeroed first, or that a page be
unmapped or mapped to another frame. -/
inductive Ask where
  | map (r : MapReq)
  | frame (r : MapReq)
  | unmap (va : Nat) (frame : Option Nat)
  deriving DecidableEq, Repr

/-- A mapping request that waits (R56): its arrival count, its context, and the words of the commands issued before it that have
not performed; those of them that name an object in its frame hold it back (R52). -/
structure Request where
  at' : Nat
  ctx : Nat
  before : List WordRef
  ask : Ask
  deriving DecidableEq, Repr

/-- A page being mapped executable (R52): the request, the counts its scan starts at and completes at. -/
structure Scan where
  req : MapReq
  start : Nat
  done : Nat
  deriving DecidableEq, Repr, Inhabited

/-- A device (R4, R63, R145, R261–R263, R315, R325–R330). `held` lists, as (context, frame, size), the frames that hold no
bytes but those of one context (R61); `pacePulses` the counts that a pace lengthens (R262); `selfHeld` the ticks the
device has held by itself (R324), `selfShadow` what they were at the last group trigger; `failed` the physical cores
marked failed (R318). -/
structure Device where
  hbm : Memory
  hbmPoison : List Nat
  held : List (Nat × Nat × Nat)
  ctxs : Vector Ctx 16
  parts : Assoc Nat Part
  served : Vector Nat 4
  links : Vector Link 18
  lead : Int
  paceFrom : Nat
  pacePulses : List Nat
  tripped : Bool
  selfHeld : Nat
  selfShadow : Nat
  devid : Reg
  life : BitVec 2
  xen : BitVec 2
  bootst : BitVec 6
  partset : BitVec 2
  ctxsel : Reg
  coresel : Reg
  rasmark : Reg
  rasleak : Reg
  raswt : Reg
  spctl : Reg
  spbase : Reg
  spsize : Reg
  sprd : Reg
  spwr : Reg
  spmark : Reg
  spdrop : Reg
  perturb : Reg
  stopc : Reg
  pwrcap : Reg
  spmap : Vector (BitVec 8) 128
  working : Nat
  failed : List Nat
  clusters : Assoc (Nat × Nat) (BitVec 16)
  firmwareLog : List (BitVec 256)
  wheel : Assoc Nat (BitVec 256)
  fuses : Assoc Nat Reg
  measurements : Vector (BitVec 256) 16
  tenantKeys : List Nat
  tokenOk : Bool
  wipedSince : Bool
  debugOpen : Bool
  nonceNo : Nat
  requests : List Request
  scan : Option Scan
  failures : List (BitVec 128)
  pinned : Nat
  unsupported : Nat
  msix : List Nat
  reports : List (BitVec 256 × Nat)
  deriving DecidableEq, Repr

/-- A fault of an itinerary as its member record holds it (R307). `kraal` names the region and herd of the unwind that it
began (R311). -/
structure FaultRec where
  t : Nat
  dev : Nat
  eng : Engine
  member : Nat
  lcore : Nat
  cause : Nat
  detail : BitVec 256
  scope : Nat
  word : WordRef
  ofWord : Bool
  kraal : Option (BitVec 13 × Nat) := none
  deriving DecidableEq, Repr, Inhabited

/-- Where an itinerary stands (R63, R66, R80, R278, R308). -/
inductive RunSt where
  | departing | running | saving | suspended | readmitted | resuming | halted | retired
  deriving DecidableEq, Repr, Inhabited

/-- An itinerary that has been served (R58, R60, R65, R82, R86). `halt` is the fault count T, scope and device of the
halt that governs; `unwinds` the unwinds of its kraals; `savedCores` its cores while it stands suspended, and those of its
cores with untimed accesses on their way that others have taken over since it retired (R69); `savedAt` the count of the
last tick that ran; `params` the PARAMS block of each member at the record's arrival;
`cls`, `arrived` and `since` the class it was served from and the arrival and wait of its entry there (R64). -/
structure Run where
  record : BitVec 512
  ctx : Nat
  home : Nat
  members : List (Nat × Nat)
  st : RunSt
  departs : Nat
  base : Nat
  leg : Nat
  herds : List (List CoreId)
  scopes : List (List CoreId)
  faults : List FaultRec
  halt : Option (Nat × HaltScope × Nat)
  unwinds : List Unwind
  kept : Option (BitVec 512)
  savedCores : List (CoreId × Core)
  savedAt : Nat
  control : Bool
  params : List Memory
  cls : Nat
  arrived : Nat
  since : Nat
  deriving DecidableEq, Repr

/-- A broadcast group hold (R84): start count, ticks, extra pulses, cause. -/
structure Hold where
  start : Nat
  ticks : Nat
  extra : Nat
  cause : HoldCause
  deriving DecidableEq, Repr, Inhabited

/-- An effect that waits for its count. Within a count, `phase` and then the keys order the effects (log 2). `who` is
the core or device that a step without operands acts for. -/
structure Pend where
  at' : Nat
  phase : Nat
  k1 : Nat
  k2 : Nat
  k3 : Nat
  seq : Nat
  who : CoreId
  act : Instr
  deriving DecidableEq, Repr

/-- An effect a suspended itinerary keeps in flight. -/
structure Kept where
  run : Nat
  pend : Pend
  deriving DecidableEq, Repr

/-- The word being executed: its reference, the address of its head, the word as fetched, and the code that the place of
its issue earns it whatever it is: occupancy conflict where the word before it still occupies its stream (R184), yield
fault where it is no yield at a listed tick (R75). -/
structure Cur where
  word : WordRef
  pc : Nat
  bits : IWord
  bar : Option Nat
  deriving DecidableEq, Repr, Inhabited

/-- The word being executed fails a check for the place of its issue alone. -/
def Cur.early (c : Cur) : Bool := c.bar.isSome

/-- What the registers of devices, the route epoch and the group trigger held when the previous count ended (R111, R262,
R272). -/
structure Past where
  devs : Assoc Nat Device
  epoch : Nat
  trigger : Option Nat
  deriving DecidableEq, Repr

/-- The state of the group. `now` is the caravan count (R57, log 17); `agenda` is sorted. `host` and `pool` are the HOST and
POOL spaces by context number (R231, log 96), `indications` the 64-byte lines of them, as (POOL, context, line), that a store
has signalled as poisoned data, oldest first (R310); `groupHeld` counts the ticks of group holds and `groupShadow` keeps it with
the count of the last group trigger, for cores that no itinerary has departed on (R321, R324). -/
structure State where
  now : Nat
  cur : Cur
  agenda : List Pend
  kept : List Kept
  seq : Nat
  free : Nat
  size : Nat
  formed : Bool
  routes : List Route
  epoch : Nat
  trigger : Option Nat
  holds : List Hold
  groupHeld : Nat
  groupShadow : Option (Nat × Nat)
  host : Assoc Nat Memory
  pool : Assoc Nat Memory
  indications : List (Bool × Nat × Nat)
  past : Past
  devs : Assoc Nat Device
  cores : Assoc CoreId Core
  runs : Assoc Nat Run
  nextRun : Nat
  deriving DecidableEq, Repr

/-! ## Reset -/

/-- An empty stream. -/
def Stream.idle : Stream :=
  { st := .unforked, pc := 0, ready := 0, shift := 0, last := 0, occ := 0, hold := 0, reps := [], joined := false,
    endTick := 0, issued := none }

/-- A register of zero bytes with tag NONE (R60). -/
def tileZero : Tile := { data := 0, tag := .none, poison := false }

/-- A weight buffer at first departure (R205). DESIGN CHOICE: its index vectors, of which the table gives no value, are 0 (log
151). -/
def weightsFresh : WBuf :=
  { cols := Vector.replicate 128 0, idx := Vector.replicate 128 0, fmt := .e4m3, mode := .dense,
    bitmap := BitVec.allOnes 128, live := 128, wsc := 0x3F800000, poison := false }

/-- Counters at reset (R327). -/
def Counters.zero : Counters := { acc := Vector.replicate 16 0, tkc := Vector.replicate 64 0, holdt := 0 }

/-- 128 scales of 1.0 (R205). -/
def ascFresh : BitVec 4096 := BitVec.ofNat 4096 ((List.replicate 128 0x3F800000).foldl (fun x w => x * 2 ^ 32 + w) 0)

/-- A core as R60, R97, R112, R154, R177–R179, R205 and R266 give it at first departure. It stands so at device reset
as well (log 5). -/
def Core.fresh : Core :=
  { s := Vector.replicate 64 0, p := 1, rrb := 0, h := Vector.replicate 32 0, bound := 0,
    flagsVx := 0, flagsMx := 0, flagsNmu := 0, flagRead := none, tvec := 0, tepc := 0, tcause := 0, tstate := false,
    kraal := none, split := [], wait := .none,
    a := Vector.replicate 32 0, n := Vector.replicate 16 0, arb := 0,
    q := Vector.replicate 8 [], o := Vector.replicate 4 [],
    dispatches := [], dispatchNo := 0, strays := [], fences := [], fenceNo := 0, ports := [], captures := [], pis := [],
    t := Vector.replicate 48 tileZero, m := Vector.replicate 8 0, rl := 10,
    latches := Vector.replicate 3 tileZero, bankWrites := [],
    acc := Vector.replicate 2 (Vector.replicate 128 0), wbuf := Vector.replicate 2 weightsFresh, asc := ascFresh, mcfg := 0,
    arrayFree := 0, loftFree := 0, controlFree := 0,
    tkState := 0, tkPhase := 0, tr := Vector.replicate 16 0, colls := [], leases := [],
    accessesTill := 0, unlandedTill := 0,
    sq := .idle, ax := .idle, vx := .idle, mx := .idle,
    counters := .zero, shadows := .zero, before := (.zero, .zero), watches := Vector.replicate 4 { base := 0, ctl := 0 },
    spoorMask := 0,
    buckets := [], sp := [], loft := [], spPoison := [], loftPoison := [],
    run := none, member := 0, leg := 0, base := 0, waypoint := false, yielded := none,
    yieldDue := none, unwoundAt := none, reached := false }

/-- A context at device reset (R108, R112, R278, R327). -/
def Ctx.reset : Ctx :=
  { pages := [], queues := Vector.replicate 4 [], record := 0, status := 0, members := [], suspLast := 0,
    pending := none, suspHeld := false, heldAt := 0, readmit := false, forwarded := none, evq := [], evqLost := 0,
    evqMsix := false, lossPending := false, seq0 := 0, dbellNo := 0, hostWin := 0, poolWin := 0, dlHost := 0, dlPool := 0,
    saveArea := 0, faultArea := 0, brken := 0, control := false, images := [] }

/-- A link end at device reset (R272). -/
def Link.reset : Link :=
  { up := false, silent := none, classB := false, pdev := 0, plink := 0, ofs := 0, fecc := 0, part := none, lastEntry := none }

/-- A device at device reset (R63, R272, R327; log 5 for what the spec gives no value). -/
def Device.reset : Device :=
  { hbm := [], hbmPoison := [], held := [], ctxs := Vector.replicate 16 .reset, parts := [], served := Vector.replicate 4 15,
    links := Vector.replicate 18 .reset, lead := 0, paceFrom := 0, pacePulses := [], tripped := false,
    selfHeld := 0, selfShadow := 0,
    devid := 0, life := 0, xen := 0, bootst := 0, partset := 0, ctxsel := 0, coresel := 0, rasmark := 0x0100,
    rasleak := 20, raswt := 0x401001, spctl := 0x000F0000, spbase := 0, spsize := 0, sprd := 0, spwr := 0, spmark := 0,
    spdrop := 0, perturb := 0, stopc := 0, pwrcap := 2000, spmap := Vector.ofFn (fun i => BitVec.ofNat 8 i.val), working := 128,
    failed := [], clusters := [], firmwareLog := [], wheel := [], fuses := [], measurements := Vector.replicate 16 0,
    tenantKeys := [], tokenOk := false, wipedSince := false, debugOpen := false, nonceNo := 0, requests := [],
    scan := none, failures := [], pinned := 0, unsupported := 0, msix := [], reports := [] }

/-- No word is being executed. -/
def Cur.none : Cur :=
  { word := { id := ⟨0, 0, 0⟩, run := 0, eng := .sq, leg := 0, issue := 0, nominal := 0, wp := false }, pc := 0,
    bits := 0, bar := Option.none }

/-- The group right after reset: every device, context and core at its reset value, nothing in flight. -/
def State.reset : State :=
  { now := 0, cur := .none, agenda := [], kept := [], seq := 0, free := 0, size := 1, formed := false, routes := [],
    epoch := 0, trigger := none, holds := [], groupHeld := 0, groupShadow := none, host := [], pool := [], indications := [],
    past := { devs := [], epoch := 0, trigger := none }, devs := [], cores := [], runs := [], nextRun := 0 }

end Sys2Proof.Machine
end

