-- ==== Sys2Proof/Machine/Ops.lean ====
section
/-! DEFINITION. The named operations of the machine: tables, register files, memory, translation, effects in flight,
faults and halts, records, traps. Every meaning is written over these. -/

namespace Sys2Proof.Machine

/-- What a meaning answers. -/
abbrev Out := Host.Outcome State Fault Refusal

/-! ## Tables and register files -/

/-- The entry of key k; d where none is listed. -/
def look {κ α : Type} [DecidableEq κ] (d : α) (k : κ) : Assoc κ α → α
  | [] => d
  | (k', v) :: r => if k' = k then v else look d k r

/-- The table with k's entry set to v. -/
def put {κ α : Type} [DecidableEq κ] (k : κ) (v : α) : Assoc κ α → Assoc κ α
  | [] => [(k, v)]
  | (k', v') :: r => if k' = k then (k, v) :: r else (k', v') :: put k v r

/-- Entry i of a register file; d outside it. -/
def vget {α : Type} {n : Nat} (d : α) (v : Vector α n) (i : Nat) : α := (v[i]?).getD d

/-- The register file with entry i set; unchanged outside it. -/
def vset {α : Type} {n : Nat} (v : Vector α n) (i : Nat) (x : α) : Vector α n := v.setIfInBounds i x

/-- Bits [lo, lo + n) of a vector set to x. -/
def setBits {w : Nat} (v : BitVec w) (lo n : Nat) (x : Nat) : BitVec w :=
  (v &&& ~~~(BitVec.ofNat w ((2 ^ n - 1) <<< lo))) ||| BitVec.ofNat w ((x % 2 ^ n) <<< lo)

/-- Bits [lo, lo + n) as a number. -/
def field {w : Nat} (v : BitVec w) (lo n : Nat) : Nat := (v.toNat >>> lo) % 2 ^ n

/-! ## Bytes and memory (R27, R225) -/

/-- The number of little-endian bytes. -/
def leNat : List Byte → Nat
  | [] => 0
  | b :: r => b.toNat + 256 * leNat r

/-- v as n little-endian bytes. -/
def leBytes : Nat → Nat → List Byte
  | 0, _ => []
  | n + 1, v => BitVec.ofNat 8 v :: leBytes n (v / 256)

/-- The byte at an address; 0 where none is listed (R61, log 6). -/
def readByte : Memory → Nat → Byte
  | [], _ => 0
  | (a, b) :: r, x => if x = a then b else if x < a then 0 else readByte r x

/-- One byte written. Writing 0 removes the entry, so that the form stays canonical. -/
def writeByte : Memory → Nat → Byte → Memory
  | [], x, v => if v = 0 then [] else [(x, v)]
  | (a, b) :: r, x, v =>
    if x = a then (if v = 0 then r else (a, v) :: r)
    else if x < a then (if v = 0 then (a, b) :: r else (x, v) :: (a, b) :: r)
    else (a, b) :: writeByte r x v

/-- n bytes from an address on. -/
def readBytes (m : Memory) (a n : Nat) : List Byte := (List.range n).map (fun i => readByte m (a + i))

/-- Bytes written from an address on. -/
def writeBytes (m : Memory) (a : Nat) : List Byte → Memory
  | [] => m
  | b :: r => writeBytes (writeByte m a b) (a + 1) r

/-- The canonical form: addresses strictly rising, no zero byte listed. -/
def Memory.wf : Memory → Bool
  | [] => true
  | (a, b) :: r => b != 0 && (match r with | [] => true | (a', _) :: _ => a < a') && Memory.wf r

/-- The 64-byte lines that n bytes at a cover. -/
def linesOf (a n : Nat) : List Nat := if n = 0 then [] else (List.range ((a + n - 1) / 64 + 1 - a / 64)).map (· + a / 64)

/-- Some covered line is poisoned (R310). -/
def poisonIn (p : List Nat) (a n : Nat) : Bool := (linesOf a n).any p.contains

/-- Poison after a write of n bytes at a that carries the lines of `carried`: a whole-line write takes the poison of
the data, a partial write leaves its line as it is (R310). -/
def poisonAfter (p : List Nat) (a n : Nat) (carried : List Nat) : List Nat :=
  let whole := (linesOf a n).filter (fun l => a ≤ 64 * l && 64 * l + 64 ≤ a + n)
  carried.filter whole.contains ++ p.filter (fun l => !whole.contains l)

/-! ## Parts of the state -/

/-- The core of an id. -/
def State.coreAt (s : State) (id : CoreId) : Core := look Core.fresh id s.cores

/-- The state with a core set. -/
def State.setCore (s : State) (id : CoreId) (c : Core) : State := { s with cores := put id c s.cores }

/-- The state with a core changed. -/
def State.modCore (s : State) (id : CoreId) (f : Core → Core) : State := s.setCore id (f (s.coreAt id))

/-- A device. -/
def State.dev (s : State) (d : Nat) : Device := look Device.reset d s.devs

/-- The state with a device set. -/
def State.setDev (s : State) (d : Nat) (x : Device) : State := { s with devs := put d x s.devs }

/-- The state with a device changed. -/
def State.modDev (s : State) (d : Nat) (f : Device → Device) : State := s.setDev d (f (s.dev d))

/-- A device as the previous count left it (R111, R262, R272). -/
def State.pastDev (s : State) (d : Nat) : Device := look Device.reset d s.past.devs

/-- The state with the HBM of a device as the previous count left it, which a read by a word at its issue finds: what performs
at this count before the words issue is not visible to it (R225). -/
def State.asLeft (s : State) (d : Nat) : State :=
  s.modDev d (fun x => { x with hbm := (s.pastDev d).hbm, hbmPoison := (s.pastDev d).hbmPoison })

/-- A context of a device. -/
def State.ctx (s : State) (d c : Nat) : Ctx := vget Ctx.reset (s.dev d).ctxs c

/-- The state with a context changed. -/
def State.modCtx (s : State) (d c : Nat) (f : Ctx → Ctx) : State :=
  s.modDev d (fun x => { x with ctxs := vset x.ctxs c (f (vget Ctx.reset x.ctxs c)) })

/-- A run that no one has begun. -/
def Run.none : Run :=
  { record := 0, ctx := 0, home := 0, members := [], st := .retired, departs := 0, base := 0, leg := 0, herds := [],
    scopes := [], faults := [], halt := Option.none, unwinds := [], kept := Option.none,
    savedCores := [], savedAt := 0, control := false, params := [], cls := 0, arrived := 0, since := 0 }

/-- An itinerary. -/
def State.run (s : State) (r : Nat) : Run := look Run.none r s.runs

/-- The state with an itinerary changed. -/
def State.modRun (s : State) (r : Nat) (f : Run → Run) : State := { s with runs := put r (f (s.run r)) s.runs }

/-- The core that the word being executed belongs to. -/
def State.id (s : State) : CoreId := s.cur.word.id

/-- That core. -/
def State.me (s : State) : Core := s.coreAt s.id

/-- That core changed. -/
def State.modMe (s : State) (f : Core → Core) : State := s.modCore s.id f

/-- The issue tick of the word being executed. -/
def State.tick (s : State) : Nat := s.cur.word.issue

/-- The itinerary of a core. -/
def State.runOf (s : State) (id : CoreId) : Run := s.run ((s.coreAt id).run.getD s.nextRun)

/-- The context number of a core (CTXN, R112). -/
def State.ctxNo (s : State) (id : CoreId) : Nat := (s.runOf id).ctx

/-- The context number of a word's itinerary. -/
def State.ctxW (s : State) (w : WordRef) : Nat := (s.run w.run).ctx

/-- The context of a core on its device. -/
def State.ctxOf (s : State) (id : CoreId) : Ctx := s.ctx id.dev (s.ctxNo id)

/-- Logical cores of a partition of a set (R4). -/
def shapeOf (set part : Nat) : Option Shape :=
  match set, part with
  | 0, 0 => some .v128
  | 1, 0 | 1, 1 => some .v64
  | 2, 0 => some .v64
  | 2, 1 | 2, 2 => some .v32
  | 3, 0 | 3, 1 | 3, 2 | 3, 3 => some .v32
  | _, _ => none

/-- Cores of a shape (R4). -/
def shapeCores : Shape → Nat
  | .v128 => 128 | .v64 => 64 | .v32 => 32

/-- NMUs of a shape (R4). -/
def shapeNmus : Shape → Nat
  | .v128 => 8 | .v64 => 4 | .v32 => 2

/-- The shape code of a launch record (R60). -/
def shapeCode : Nat → Option Shape
  | 0 => some .v128 | 1 => some .v64 | 2 => some .v32 | _ => none

/-- The cores of an itinerary on one member. -/
def coresOn (r : Run) (m : Nat × Nat) : List CoreId :=
  match shapeCode (field r.record 44 2) with
  | some sh => (List.range (shapeCores sh)).map (fun c => ⟨m.1, m.2, c⟩)
  | none => []

/-- The cores of an itinerary, members in order. -/
def coresOf (r : Run) : List CoreId := r.members.flatMap (coresOn r)

/-- Change every listed core. -/
def State.modCores (s : State) (ids : List CoreId) (f : Core → Core) : State := ids.foldl (fun s id => s.modCore id f) s

/-! ## Effects in flight (log 2) -/

/-- Phases of one count. Words issue between `phNmu` and `phResult`. -/
def phControl : Nat := 0
/-- Reads that perform at the count. -/
def phRead : Nat := 1
/-- NMU performs (R227). -/
def phNmu : Nat := 2
/-- Register results, tokens and handle quarters of the count. -/
def phResult : Nat := 4
/-- The issue of words. -/
def phIssue : Nat := 3
/-- Writes to SP and LOFT (R226). -/
def phWrite : Nat := 5
/-- Landings, records and what comes from outside. -/
def phLand : Nat := 6
/-- Checks at the end of the count. -/
def phEnd : Nat := 7
/-- Suspensions. -/
def phLast : Nat := 8

/-- a comes before b: by count, phase, keys, and order of scheduling. -/
def pendBefore (a b : Pend) : Bool :=
  if a.at' ≠ b.at' then a.at' < b.at' else if a.phase ≠ b.phase then a.phase < b.phase
  else if a.k1 ≠ b.k1 then a.k1 < b.k1 else if a.k2 ≠ b.k2 then a.k2 < b.k2
  else if a.k3 ≠ b.k3 then a.k3 < b.k3 else a.seq < b.seq

/-- An effect put in its place. -/
def insertPend (p : Pend) : List Pend → List Pend
  | [] => [p]
  | q :: r => if pendBefore p q then p :: q :: r else q :: insertPend p r

/-- An effect scheduled for a count with its keys. -/
def State.schedAt (s : State) (t phase k1 k2 k3 : Nat) (i : Instr) : State :=
  { s with agenda := insertPend ⟨t, phase, k1, k2, k3, s.seq, s.id, i⟩ s.agenda, seq := s.seq + 1 }

/-- An effect scheduled for a count. -/
def State.sched (s : State) (t phase : Nat) (i : Instr) : State := s.schedAt t phase 0 0 0 i

/-- A step of a device scheduled for a count. -/
def State.schedDev (s : State) (t phase dev : Nat) (i : Instr) : State :=
  { s with agenda := insertPend ⟨t, phase, 0, 0, 0, s.seq, ⟨dev, 0, 0⟩, i⟩ s.agenda, seq := s.seq + 1 }

/-- A sketch command. -/
def isSketchOp (op : NmuOp) : Bool := op matches .skinit | .skupd | .skqry | .skadd | .skaddP | .skscl | .skopt |
  .skcpyOut | .skcpyIn | .skcpyS

/-- The word and the cargo of a data flit. -/
def flitCargo : FlitBody → Option (WordRef × Cargo)
  | .enter w _ _ c | .arrive w _ _ c | .relay w _ _ c => some (w, c)
  | _ => none

/-- The word that a pending effect is an access or result of. Flits on their way are none (R265, log 31). -/
def Instr.owner : Instr → Option WordRef
  | .leasedResult w _ | .queueEntryReady w _ _ _ | .collReduce w _ _ | .peerRequest w _ | .dispatchLanding w _ => some w
  | .flitArrival _ _ b => match flitCargo b with
    | some (w, .peerRequest _) | some (w, .peerResponse _ _) => some w
    | _ => none
  | .patchPerform c | .sketchPerform c | .commandRecordWrite c _ _ _ => some c.word
  | .accessPerform a => match a with
    | .load w _ _ _ _ | .store w _ _ _ _ | .copyRead w _ _ | .copyWrite w _ _ _ _
    | .feedRead w _ _ _ _ | .drainPop w _ _ | .sendRead w _ _ | .collRead w _ _ | .mwldBeat w _ _ | .dispRead w _ _
    | .dispWrite w _ _ => some w
    | .descRead c | .inputRead c _ | .secondRead c => some c.word
  | _ => none

/-- The word that a pending effect comes from, flits on their way included. -/
def Instr.source : Instr → Option WordRef
  | .flitLanding w _ _ _ _ _ | .collResultWrite w _ _ _ _ => some w
  | .flitArrival _ _ b => (flitCargo b).map (·.1)
  | i => Instr.owner i

/-- The itinerary a pending effect belongs to by name. -/
def Instr.runKey : Instr → Option Nat
  | .departure r | .legDeparture r _ | .legOverrun r _ | .contextSaveDone r | .resume r
  | .lastLegDeadline r _ | .yieldListTick r _ _ | .fenceRelease r _ _ => some r
  | _ => none

/-- A flit of a word that has not left by a count: it would enter its route's first link later, or cross the chip later in the
48 ticks that this takes (R259, R265). -/
def Pend.unsent (p : Pend) (w : WordRef) (now : Nat) : Bool :=
  match p.act with
  | .flitArrival d _ (.enter v src hops _) => v == w && d == src && decide (now + (if hops.isEmpty then 48 else 0) < p.at')
  | _ => false

/-- The effects of a word after its fault do not perform (R174), and it sends no later flit (R265). DESIGN CHOICE: an entry
that the word has placed in a queue stays there, ready or not, with the bytes that have come (log 146). -/
def State.cancelWord (s : State) (w : WordRef) : State :=
  { s with agenda := s.agenda.filter (fun p => Instr.owner p.act != some w && !p.unsent w s.now) }

/-- A free value is taken from the counter (log 7). -/
def State.drawn (s : State) : State := { s with free := s.free + 1 }

/-! ## Routes (R259) -/

/-- The route between two devices. -/
def State.route? (s : State) (a b : Nat) : Option Route := s.routes.find? (fun r => r.src == a && r.dst == b)

/-- The one-way latency of data between cores of two devices: 48 on one device (R259). -/
def State.latency (s : State) (a b : Nat) : Nat :=
  if a = b then 48 else ((s.route? a b).map (·.h)).getD 8128

/-- The latency of a control flit: none within a device, the pair bound where no route is fixed (R259, R274). -/
def State.controlLatency (s : State) (a b : Nat) : Nat :=
  if a = b then 0 else ((s.route? a b).map (·.h)).getD 8128

/-! ## Translation (R149–R151, R56) -/

/-- The page that maps a virtual address. -/
def State.page? (s : State) (d c va : Nat) : Option Page :=
  (s.ctx d c).pages.find? (fun p => p.va ≤ va && va < p.va + p.size && p.seen ≤ s.now)

/-- Every page of a range is mapped. -/
def pagesOver (ps : List Page) : Nat → Nat → Nat → Option (List Page)
  | 0, _, _ => some []
  | fuel + 1, va, n =>
    if n = 0 then some []
    else match ps.find? (fun p => p.va ≤ va && va < p.va + p.size) with
      | none => none
      | some p =>
        let step := p.va + p.size - va
        if n ≤ step then some [p] else (pagesOver ps fuel (va + step) (n - step)).map (p :: ·)

/-- The pages of a virtual range, or none where part of it is unmapped. -/
def State.pagesOf (s : State) (d c va n : Nat) : Option (List Page) :=
  let ps := (s.ctx d c).pages.filter (fun p => p.seen ≤ s.now)
  pagesOver ps (ps.length + 1) va n

/-- The physical address of a virtual one; the virtual address itself where nothing maps it (never used so: every
range is checked first). -/
def State.phys (s : State) (d c va : Nat) : Nat :=
  match s.page? d c va with
  | some p => p.frame + (va - p.va)
  | none => va

/-- The byte of HBM at a virtual address; 0 where nothing maps it (never used so: every range is checked first). -/
def State.hbmByte (s : State) (d c va : Nat) : Byte :=
  match s.page? d c va with
  | some p => readByte (s.dev d).hbm (p.frame + (va - p.va))
  | none => 0

/-- n bytes of HBM at a virtual address. -/
def State.readHbm (s : State) (d c va n : Nat) : List Byte := (List.range n).map (fun i => s.hbmByte d c (va + i))

/-- Two ranges overlap. -/
def framesMeet (a n b m : Nat) : Bool := decide (a < b + m) && decide (b < a + n)

/-- A frame of a device is mapped executable, or is being scanned to be (R52, R56). -/
def State.frameLocked (s : State) (d a n : Nat) : Bool :=
  let x := s.dev d
  x.ctxs.toList.any (fun c => c.pages.any (fun p => p.exec.isSome && framesMeet a n p.frame p.size)) ||
    (x.scan.map (fun r => framesMeet a n r.req.frame r.req.size)).getD false

/-- A byte of HBM takes writes: its address is mapped, and its frame is not locked (R52, R56). -/
def State.takesByte (s : State) (d c va : Nat) : Bool :=
  (s.page? d c va).isSome && !s.frameLocked d (s.phys d c va) 1

/-- Bytes of HBM written at a virtual address; a whole line written is clean (R310). A locked frame is not changed. -/
def State.writeHbm (s : State) (d c : Nat) (va : Nat) (bs : List Byte) : State :=
  let w := bs.foldl (fun (m : Memory × Nat) b =>
    (if s.takesByte d c m.2 then writeByte m.1 (s.phys d c m.2) b else m.1, m.2 + 1)) ((s.dev d).hbm, va)
  let lines := (linesOf va bs.length).filter (fun l =>
    va ≤ 64 * l && 64 * l + 64 ≤ va + bs.length && s.takesByte d c (64 * l))
  let clean := lines.map (fun l => s.phys d c (64 * l) / 64)
  s.modDev d (fun x => { x with hbm := w.1, hbmPoison := x.hbmPoison.filter (fun l => !clean.contains l) })

/-- Some line of a virtual range is poisoned. -/
def State.hbmPoisoned (s : State) (d c va n : Nat) : Bool :=
  (linesOf va n).any (fun l => (s.dev d).hbmPoison.contains (s.phys d c (64 * l) / 64))

/-! ## Faults of the device (R78, R79, R83–R85, R305–R308, R311) -/

/-- A check of a word: the code and DETAIL it would raise. -/
abbrev Check := Option (Nat × BitVec 256)

/-- The check that fails where `bad` holds. -/
def chk (bad : Bool) (code : Nat) (detail : BitVec 256) : Check := if bad then some (code, detail) else none

/-- The lowest code among the failing checks (R78). -/
def firstFault : List Check → Check
  | [] => none
  | none :: r => firstFault r
  | some (c, d) :: r =>
    match firstFault r with
    | none => some (c, d)
    | some (c', d') => if c ≤ c' then some (c, d) else some (c', d')

/-- Codes that unwind a kraal (R305). -/
def kraalCause (c : Nat) : Bool := c == 0x42 || c == 0x43

/-- The halt scope of a code (R78, R305). -/
def scopeOf (c : Nat) : HaltScope := if c == 0x0A || c == 0x0C || c == 0x40 then .group else .itinerary

/-- SCOPE of a record (R307). -/
def scopeNo : HaltScope → Nat
  | .itinerary => 1
  | .group => 2

/-- An itinerary that a halt can still stop. -/
def Run.live (r : Run) : Bool := r.st != .halted && r.st != .retired

/-- Halt flits for one itinerary leave a device for every member (R85). -/
def State.sendHalt (s : State) (r t : Nat) (scope : HaltScope) (dev cause : Nat) : State :=
  (s.run r).members.foldl
    (fun s m => s.sched (s.now + s.controlLatency dev m.1) phEnd (.haltFlit m.1 r t scope dev cause)) s

/-- A halt of an itinerary with count t is among its halts; the smallest count governs (R85). -/
def State.haltFrom (s : State) (r t : Nat) (scope : HaltScope) (dev : Nat) : State :=
  s.modRun r (fun x => { x with halt := match x.halt with
    | none => some (t, scope, dev)
    | some (t', sc, d) => if t' ≤ t then some (t', sc, d) else some (t, scope, dev) })

/-- A halt of one itinerary raised at count t (R85). One that stands suspended holds no core that a halt could stop. -/
def State.haltRun (s : State) (r t : Nat) (scope : HaltScope) (dev cause : Nat) : State :=
  let x := s.run r
  if x.live && x.st != .suspended && x.st != .readmitted then (s.haltFrom r t scope dev).sendHalt r t scope dev cause
  else s

/-- A halt of the given scope: of one itinerary, or of every itinerary of the group (R85, R305). -/
def State.beginHalt (s : State) (r t : Nat) (scope : HaltScope) (dev cause : Nat) : State :=
  match scope with
  | .itinerary => s.haltRun r t scope dev cause
  | .group => (s.runs.map (·.1)).foldl (fun s r => s.haltRun r t scope dev cause) s

/-- The number of the member that a device is within an itinerary (R112, R259). -/
def memberNo (r : Run) (dev : Nat) : Nat := r.members.findIdx (fun m => m.1 == dev)

/-- Change one stream of a core. -/
def Core.modStream (c : Core) (e : Engine) (f : Stream → Stream) : Core :=
  match e with
  | .sq => { c with sq := f c.sq }
  | .ax => { c with ax := f c.ax }
  | .vx => { c with vx := f c.vx }
  | .mx => { c with mx := f c.mx }
  | _ => c

/-- One stream of a core. -/
def Core.stream (c : Core) (e : Engine) : Stream :=
  match e with
  | .sq => c.sq | .ax => c.ax | .vx => c.vx | .mx => c.mx
  | _ => .idle

/-- The fill of a spoor wheel (R326). -/
def Device.fill (d : Device) : Nat := (d.spwr.toNat + 2 ^ 32 - d.sprd.toNat) % 2 ^ 32

/-- A device asks for lossless holds: its fill stands at the mark (R326). -/
def Device.wantsHold (d : Device) : Bool :=
  d.spctl.getLsbD 0 && d.spctl.getLsbD 1 && decide (d.spmark.toNat ≤ d.fill)

/-- Lossless holds are looked into at the end of this count, unless they already are (R326). -/
def State.losslessSoon (s : State) (dev : Nat) : State :=
  if (s.dev dev).wantsHold && !s.agenda.any (fun p => p.act == Instr.losslessHoldRequest) then
    s.schedDev s.now phEnd 0 .losslessHoldRequest
  else s

/-- A spoor record (R325, R326): written into the wheel, or dropped and counted where the wheel is full. -/
def State.spoor (s : State) (dev : Nat) (entry : BitVec 256) : State :=
  if !(s.dev dev).spctl.getLsbD 0 then s
  else
    (s.modDev dev (fun d =>
      if d.spsize.toNat ≤ d.fill then
        { d with spdrop := d.spdrop + 1, spctl := if d.spctl.getLsbD 1 then d.spctl ||| 4 else d.spctl }
      else
        { d with wheel := put (d.spwr.toNat % d.spsize.toNat) entry d.wheel,
                 spwr := BitVec.ofNat 64 ((d.spwr.toNat + 1) % 2 ^ 32) })).losslessSoon dev

/-- ENGINE of a record (R307). -/
def engineNo : Engine → Nat
  | .sq => 0 | .ax => 1 | .vx => 2 | .mx => 3 | .nmu => 4 | .link => 5 | .drover => 6

/-- A spoor record that names a core, written by a device (R325). -/
def State.spoorCoreOn (s : State) (dev : Nat) (id : CoreId) (e : Engine) (kind ltick : Nat) (payload : BitVec 128) : State :=
  let c := s.coreAt id
  s.spoor dev (BitVec.ofNat 64 s.now ++ BitVec.ofNat 8 c.member ++ BitVec.ofNat 8 id.core ++
    BitVec.ofNat 4 (engineNo e) ++ BitVec.ofNat 4 kind ++ 0#8 ++ BitVec.ofNat 32 ltick ++ payload)

/-- A spoor record of a core (R325). -/
def State.spoorCore (s : State) (id : CoreId) (e : Engine) (kind ltick : Nat) (payload : BitVec 128) : State :=
  s.spoorCoreOn id.dev id e kind ltick payload

/-- A spoor record of no core for a count: LCORE 0xFF, the device's member number in an itinerary that runs there (R325,
log 89). -/
def State.spoorDevAt (s : State) (t d : Nat) (e : Engine) (kind : Nat) (payload : BitVec 128) : State :=
  let run := s.runs.find? (fun r => r.2.st == .running && r.2.members.any (·.1 == d))
  s.spoor d (BitVec.ofNat 64 t ++ BitVec.ofNat 8 ((run.map (fun r => memberNo r.2 d)).getD 0) ++ 0xFF#8 ++
    BitVec.ofNat 4 (engineNo e) ++ BitVec.ofNat 4 kind ++ 0#8 ++ 0#32 ++ payload)

/-- A spoor record of no core for this count. -/
def State.spoorDev (s : State) (d : Nat) (e : Engine) (kind : Nat) (payload : BitVec 128) : State :=
  s.spoorDevAt s.now d e kind payload

/-- A class of records is enabled in both masks (R325). -/
def State.spoorOn (s : State) (id : CoreId) (cls : Nat) : Bool :=
  (s.coreAt id).spoorMask.getLsbD cls && (s.dev id.dev).spctl.getLsbD (8 + cls)

/-- A fault charged to a word is recorded in its itinerary (R307), and its spoor record written where it is raised (R325). -/
def State.addFault (s : State) (r : Nat) (f : FaultRec) : State :=
  (s.modRun r (fun x => { x with faults := x.faults ++ [f] })).spoorCoreOn f.dev f.word.id f.eng 4
    (s.now - (s.coreAt f.word.id).base) (BitVec.ofNat 128 f.cause)

/-- The open kraal of a core covers a count: those after its kopen (R311). -/
def kraalCovers (c : Core) (now : Nat) : Bool := (c.kraal.map (fun k => decide (k.opened < now))).getD false

/-- The core of a word still runs the word's itinerary. -/
def State.mine (s : State) (w : WordRef) : Bool := (s.coreAt w.id).run == some w.run

/-- Every stream of a core that runs stops. -/
def Core.stopped (c : Core) : Core :=
  let stop (st : Stream) : Stream := if st.st = .running then { st with st := .stopped } else st
  { c with sq := stop c.sq, ax := stop c.ax, vx := stop c.vx, mx := stop c.mx }

/-- A fault raised at a device at this count, charged to a word, recorded under an engine (R79, R85, R306, R311). The word's
stream stops, an END it has reached stands (R74), and its later effects do not perform. Inside a kraal the codes of R305
unwind: whether the kraal is still open is decided at the end of the count, since a kclose of the same tick closes it. -/
def State.raiseOn (s : State) (dev : Nat) (eng : Engine) (w : WordRef) (ofWord : Bool) (cause : Nat) (detail : BitVec 256) :
    State :=
  let c := s.coreAt w.id
  let s := s.cancelWord w
  if !(s.mine w && (s.run w.run).live) then s
  else
    let s := s.modCore w.id (fun c => c.modStream w.eng (fun st =>
      { st with st := if st.st = .ended then .ended else .stopped, pc := if s.cur.word = w then s.cur.pc else st.pc }))
    let s := s.addFault w.run
      { t := s.now, dev := dev, eng := eng, member := c.member, lcore := w.id.core, cause := cause,
        detail := detail, scope := scopeNo (scopeOf cause), word := w, ofWord := ofWord }
    match c.kraal with
    | some k =>
      if kraalCause cause && kraalCovers c s.now then
        s.sched s.now phEnd (.unwindFlit dev w.run ⟨s.now, k.region, k.herd, cause⟩ (some w))
      else s.beginHalt w.run s.now (scopeOf cause) dev cause
    | none => s.beginHalt w.run s.now (scopeOf cause) dev cause

/-- A fault of a word raised at the word's own device. -/
def State.raise (s : State) (eng : Engine) (w : WordRef) (ofWord : Bool) (cause : Nat) (detail : BitVec 256) : State :=
  s.raiseOn w.id.dev eng w ofWord cause detail

/-- The word being executed faults: it has no effect (R79). -/
def State.fault (s : State) (cause : Nat) (detail : BitVec 256) : State :=
  s.raise s.cur.word.eng s.cur.word true cause detail

/-- A word with its checks and its effect: the effect where every check passes, else the fault of the lowest code
(R78, R79). What the place of its issue earns it is among its checks (R75, R184). -/
def State.word (s : State) (checks : List Check) (eff : State → State) : Out :=
  match firstFault (s.cur.bar.map (fun code => (code, 0)) :: checks) with
  | none => .next (eff s)
  | some (c, d) => .next (s.fault c d)

/-- A fault of no core arises at a device: its spoor record is written (R325), and it is charged to every itinerary
running there (R307). Its scope is the group, whose itineraries all halt (R78, R305). -/
def State.deviceFault (s : State) (dev cause : Nat) (eng : Engine) (detail : BitVec 256) : State :=
  let s := s.spoorDev dev eng 4 (BitVec.ofNat 128 cause)
  let here := s.runs.filter (fun x => x.2.live && x.2.st != .suspended && x.2.st != .readmitted &&
    x.2.members.any (fun m => m.1 == dev))
  let s := here.foldl (fun s x => s.modRun x.1 (fun y => { y with faults := y.faults ++
    [{ t := s.now, dev := dev, eng := eng, member := memberNo y dev, lcore := 0xFF, cause := cause, detail := detail,
       scope := scopeNo (scopeOf cause),
       word := { id := ⟨dev, 0, 0xFF⟩, run := x.1, eng := eng, leg := y.leg, issue := 0, nominal := 0, wp := true },
       ofWord := false }] })) s
  s.beginHalt 0 s.now (scopeOf cause) dev cause

/-! ## DETAIL of a record (R307) -/

/-- The code of a space. -/
def spaceNo : Space → Nat
  | .sp => 0 | .loft => 1 | .hbm => 2 | .peer => 3 | .host => 4 | .pool => 5 | .code => 6

/-- Address and space. -/
def addrDetail (space : Space) (a : Nat) : BitVec 256 := BitVec.ofNat 256 (a % 2 ^ 64 + spaceNo space * 2 ^ 64)

/-- A lease: register index, family, issue tick of the holder, ρ. -/
def leaseDetail (fam idx : Nat) (l : Lease) : BitVec 256 :=
  BitVec.ofNat 256 (idx % 256 + (min fam 8) * 2 ^ 8 + l.issue * 2 ^ 32 + l.rho * 2 ^ 64)

/-- A consumed unit and its line or index. -/
def unitDetail (unit idx : Nat) : BitVec 256 := BitVec.ofNat 256 (unit + idx * 2 ^ 64)

/-! ## Leases (R77) -/

/-- The lease that covers a register at a count. -/
def leaseOn (c : Core) (now fam idx : Nat) : Option Lease :=
  c.leases.find? (fun l => l.fam == fam && l.lo ≤ idx && idx ≤ l.hi && now < l.till)

/-- A read or write of a leased register is a lease fault. `name` is the register as the word names it. -/
def leaseChk (c : Core) (now fam idx name : Nat) : Check :=
  (leaseOn c now fam idx).map (fun l => (0x08, leaseDetail fam name l))

/-- The word being executed takes a lease of registers lo to hi that ends at its issue tick plus `lam`; leases that have
ended are dropped. -/
def State.lease (s : State) (fam lo hi lam : Nat) : State :=
  s.modMe (fun c => { c with leases :=
    ⟨fam, lo, hi, s.cur.word.eng, s.tick, s.tick + lam, s.now + lam⟩ :: c.leases.filter (fun x => s.now < x.till) })

/-- A timed access of the core performs at a count (R75). -/
def Core.accessAt (c : Core) (t : Nat) : Core := { c with accessesTill := max c.accessesTill t }

/-! ## The event queue (R108, R112, R308) -/

/-- An event record. -/
def eventRecord (payload : BitVec 128) (stamp : Nat) (lost : Bool) (cls source seq : Nat) : BitVec 256 :=
  payload ++ BitVec.ofNat 64 stamp ++ 1#1 ++ BitVec.ofBool lost ++ 0#6 ++ BitVec.ofNat 8 cls ++
    BitVec.ofNat 16 source ++ BitVec.ofNat 32 seq

/-- STAMP, SOURCE, SEQ of a record as one number. -/
def recordKey (r : BitVec 256) : Nat := field r 64 64 * 2 ^ 48 + field r 32 16 * 2 ^ 32 + field r 0 32

/-- A record in its place: ascending STAMP, SOURCE, SEQ. -/
def insertRecord (r : BitVec 256) : List (BitVec 256) → List (BitVec 256)
  | [] => [r]
  | q :: rest => if recordKey r < recordKey q then r :: q :: rest else q :: insertRecord r rest

/-- One more record lost, saturating. -/
def bumpLost (n : BitVec 32) : BitVec 32 := if n == BitVec.allOnes 32 then n else n + 1

/-- A waypoint word completes at this count: the next one issues at least a tick later (R100, log 7). -/
def State.waypointDone (s : State) (id : CoreId) : State :=
  (s.modCore id (fun c => { c with
    wait := .none,
    sq := { c.sq with ready := s.now - c.base + 1 + Config.waypointGap s.free } })).drawn

/-- Every core of a context on a device that waits in evwait completes it (R110). -/
def State.wakeEvents (s : State) (d c : Nat) : State :=
  (s.cores.map (·.1)).foldl (fun s id =>
    if id.dev = d && (s.coreAt id).wait = .event && s.ctxNo id = c then s.waypointDone id else s) s

/-- A record posted to a context's queue, or lost where the queue is full (R108); its message sent (R281). -/
def State.post (s : State) (d c : Nat) (payload : BitVec 128) (cls source seq : Nat) : State :=
  let x := s.ctx d c
  if 256 ≤ x.evq.length then
    s.modCtx d c (fun x => { x with evqLost := bumpLost x.evqLost, lossPending := true })
  else
    let s := s.modCtx d c (fun x =>
      { x with evq := insertRecord (eventRecord payload s.now x.lossPending cls source seq) x.evq,
               lossPending := false })
    let s := if x.evqMsix then s.modDev d (fun y => { y with msix := y.msix ++ [c] }) else s
    s.wakeEvents d c

/-- A class-0 record of a context on a device (R308). -/
def State.postClass0 (s : State) (d c itin status cause : Nat) : State :=
  let x := s.ctx d c
  (s.post d c (BitVec.ofNat 128 (itin % 2 ^ 24 + status * 2 ^ 24 + cause * 2 ^ 32)) 0 0 x.seq0).modCtx d c
    (fun x => { x with seq0 := x.seq0 + 1 })

/-! ## Reliability buckets (R315, R316) -/

/-- A bucket after a charge, and whether the charge carried it to the mark. -/
def charged (mark : Nat) (b : BitVec 16) (w : Nat) : BitVec 16 × Bool :=
  let v := min 65535 (b.toNat + w)
  (BitVec.ofNat 16 v, b.toNat < mark && mark ≤ v)

/-- A class-3 record: to the context that owns the partition, or to the firmware log (R316). -/
def State.predictive (s : State) (d part source kind idx : Nat) (fill : BitVec 16) : State :=
  let payload := BitVec.ofNat 128 (kind + idx * 2 ^ 8 + fill.toNat * 2 ^ 16)
  match (look ⟨none, false⟩ part (s.dev d).parts).run with
  | some r => s.post d (s.run r).ctx payload 3 source 0
  | none => s.modDev d (fun x => { x with firmwareLog := x.firmwareLog ++ [eventRecord payload s.now false 3 source 0] })

/-- The kind code of a bucket (R316). -/
def bucketNo : BucketKind → Nat
  | .spBank => 0 | .tileBank => 1 | .splitBank => 2 | .loftSlice => 3 | .mxRow => 4 | .mxCol => 5 | .vxLanes => 6

/-- A bucket of a core and the bucket of its cluster are charged (R315, R316). -/
def State.charge (s : State) (id : CoreId) (k : BucketKind) (i w : Nat) : State :=
  let mark := (s.dev id.dev).rasmark.toNat
  let b := charged mark (look 0 (k, i) (s.coreAt id).buckets) w
  let s := s.modCore id (fun c => { c with buckets := put (k, i) b.1 c.buckets })
  let s := if b.2 then s.predictive id.dev id.part id.core (bucketNo k) i b.1 else s
  let cl := id.core / 8
  let e := charged mark (look 0 (id.part, cl) (s.dev id.dev).clusters) w
  let s := s.modDev id.dev (fun d => { d with clusters := put (id.part, cl) e.1 d.clusters })
  if e.2 then s.predictive id.dev id.part (0x8000 + cl) 7 cl e.1 else s

/-- WC, WU and WB of RASWT (R316, R327). -/
def State.wc (s : State) (d : Nat) : Nat := field (s.dev d).raswt 0 8
/-- WU. -/
def State.wu (s : State) (d : Nat) : Nat := field (s.dev d).raswt 8 8
/-- WB. -/
def State.wb (s : State) (d : Nat) : Nat := field (s.dev d).raswt 16 8

/-! ## Counters of cores (R321, R324) -/

/-- Counters of a core whose streams have stood n ticks, some of them held. -/
def Counters.stood (n held : Nat) : Counters :=
  { Counters.zero with
    acc := [3, 7, 11, 15].foldl (fun v i => vset v i (BitVec.ofNat 64 n)) Counters.zero.acc, holdt := BitVec.ofNat 64 held }

/-- The core of an id has an entry of its own. -/
def State.isListed (s : State) (id : CoreId) : Bool := s.cores.any (fun x => x.1 == id)

/-- Counters of a core: one on which no itinerary has departed has stood since reset (R324). -/
def State.countersOf (s : State) (id : CoreId) : Counters :=
  if s.isListed id then (s.coreAt id).counters else .stood s.now (s.groupHeld + (s.dev id.dev).selfHeld)

/-- Shadows of a core (R321). -/
def State.shadowsOf (s : State) (id : CoreId) : Counters :=
  if s.isListed id then (s.coreAt id).shadows
  else match s.groupShadow with
    | none => .zero
    | some (x, held) => .stood x (held + (s.dev id.dev).selfShadow)

/-- The core has an entry of its own from now on, with the counters it stands at. -/
def State.listed (s : State) (id : CoreId) : State :=
  if s.isListed id then s
  else
    let k := s.countersOf id
    let h := s.shadowsOf id
    s.setCore id { Core.fresh with counters := k, shadows := h, before := (k, h) }

/-! ## Scalar registers (R8, R38, R88, R97) -/

/-- The slot of a register name: s32–s63 rotate with RRB (R97). -/
def sSlot (c : Core) (i : Nat) : Nat := if i < 32 then i else 32 + (i - 32 + c.rrb.toNat) % 32

/-- s[i]; s0 reads zero. -/
def Core.rs (c : Core) (i : Nat) : Reg := if i = 0 then 0 else vget 0 c.s (sSlot c i)

/-- A slot of the s file written; slot 0 is discarded. -/
def Core.wsSlot (c : Core) (k : Nat) (v : Reg) : Core := if k = 0 then c else { c with s := vset c.s k v }

/-- s[i] written; a write to s0 is discarded. -/
def Core.ws (c : Core) (i : Nat) (v : Reg) : Core := c.wsSlot (sSlot c i) v

/-- p[i]; p0 reads true. -/
def Core.rp (c : Core) (i : Nat) : Bool := i == 0 || c.p.getLsbD i

/-- p[i] written; a write to p0 is discarded. -/
def Core.wp (c : Core) (i : Nat) (v : Bool) : Core := if i = 0 then c else { c with p := setBits c.p i 1 v.toNat }

/-! ## The leg table (R59) and herds (R86) -/

/-- The leg record of a core as a number, as its bytes stood when the previous count ended (R225; log 156). -/
def State.legRecord (s : State) (id : CoreId) (leg : Nat) : Nat :=
  let r := s.runOf id
  let n := (coresOn r (id.dev, id.part)).length
  leNat ((s.asLeft id.dev).readHbm id.dev r.ctx (field r.record 448 64 + 64 * (leg * n + id.core)) 64)

/-- Bits [lo, lo + n) of a number. -/
def nfield (x lo n : Nat) : Nat := (x >>> lo) % 2 ^ n

/-- The address of a stream in the leg record of the core's current leg. -/
def State.legAddr (s : State) (id : CoreId) (lo : Nat) : Nat := nfield (s.legRecord id (s.coreAt id).leg) lo 64

/-- Where the leg record names a stream's first word: SQT, VXE, MXE, AXE. -/
def legField : Engine → Nat
  | .vx => 320
  | .mx => 256
  | .ax => 192
  | _ => 448

/-- Where the leg record names the first waypoint word. -/
def legSqw : Nat := 384

/-- The cores of a herd entry as loaded; none outside the table. -/
def State.herd (s : State) (id : CoreId) (hd : Nat) : List CoreId := (s.runOf id).herds[hd]?.getD []

/-! ## Access-engine registers (R154, R160) -/

/-- The slot of a register name: a16–a31 rotate with ARB. -/
def aSlot (c : Core) (i : Nat) : Nat := if i < 16 then i else 16 + (i - 16 + c.arb.toNat) % 16

/-- a[i]. -/
def Core.ra (c : Core) (i : Nat) : Reg := vget 0 c.a (aSlot c i)

/-- a[i] written. -/
def Core.wa (c : Core) (i : Nat) (v : Reg) : Core := { c with a := vset c.a (aSlot c i) v }

/-- ARB turns by one where a new iteration begins (R160). -/
def Core.modArb (c : Core) (turn : Bool) : Core := if turn then { c with arb := c.arb + 15 } else c

/-- n[i]. -/
def Core.rn (c : Core) (i : Nat) : BitVec 32 := vget 0 c.n i

/-- n[i] written. -/
def Core.wn (c : Core) (i : Nat) (v : BitVec 32) : Core := { c with n := vset c.n i v }

/-! ## Handles (R104–R106) -/

/-- h[i]. -/
def Core.rh (c : Core) (i : Nat) : BitVec 256 := vget 0 c.h i

/-- Quarter q of a handle written. -/
def Core.whQuarter (c : Core) (i q : Nat) (v : Reg) : Core :=
  { c with h := vset c.h i (setBits (c.rh i) (64 * q) 64 v.toNat) }

/-! ## Traps (R114, R115) -/

/-- The code of the software trap in TCAUSE. -/
def softwareTrap : Nat := 0x50

/-- Handler entry by trap in waypoint code (R114): TEPC, TCAUSE and TSTATE are written and SQ goes to TVEC. -/
def State.enterTrap (s : State) (code : BitVec 8) : State :=
  s.modMe (fun c => { c with
    tepc := BitVec.ofNat 64 (s.cur.pc + 4),
    tcause := BitVec.ofNat 8 softwareTrap ++ code,
    tstate := true,
    sq := { c.sq with pc := c.tvec.toNat } })

/-- Return from the handler (R115): TSTATE is cleared and SQ goes to TEPC. -/
def State.leaveTrap (s : State) : State :=
  s.modMe (fun c => { c with tstate := false, sq := { c.sq with pc := c.tepc.toNat } })

/-- Handler entry by an unwind (R313): TCAUSE names 0x44 and the original cause, TEPC and TSTATE are cleared, and SQ
issues the handler from the next tick on as the waypoint of the leg. -/
def Core.enterKraal (c : Core) (now cause handler : Nat) : Core :=
  { c with
    tcause := 0x44#8 ++ BitVec.ofNat 8 cause,
    tepc := 0, tstate := false, kraal := none, waypoint := true, wait := .none, unwoundAt := some now,
    sq := { c.sq with st := .running, pc := handler, ready := now - c.base + 1, reps := [] } }

end Sys2Proof.Machine
end

