-- ==== Sys2Proof/Machine/Flags.lean ====
section
/-! DEFINITION. Flags: the sticky flags of the engines (R112, R133, R142), and the predicates and conditions of SQ
compares (R91). -/

namespace Sys2Proof.Machine

/-- Flags that a word of an engine sets are no longer those of a pending push alone. -/
def Core.shareFlags (c : Core) (e : Engine) (f : BitVec 5) : Core :=
  { c with o := c.o.map (fun l => l.map (fun x => if x.word.eng = e then { x with flags := x.flags &&& ~~~f } else x)) }

/-- Flags joined to FLAGS_VX. -/
def Core.orVx (c : Core) (f : BitVec 5) : Core := { c.shareFlags .vx f with flagsVx := c.flagsVx ||| f }

/-- Flags joined to FLAGS_MX. -/
def Core.orMx (c : Core) (f : BitVec 5) : Core := { c.shareFlags .mx f with flagsMx := c.flagsMx ||| f }

/-- Flags that a word of an engine which pushes now sets anew. -/
def Core.newFlags (c : Core) (e : Engine) (f : BitVec 5) : BitVec 5 := f &&& ~~~(if e = .mx then c.flagsMx else c.flagsVx)

/-- The entry that a word has pushed keeps the flags that the word alone has set (R133). -/
def Core.noteFlags (c : Core) (w : WordRef) (f : BitVec 5) : Core :=
  { c with o := c.o.map (fun l => l.map (fun x => if x.word = w then { x with flags := f } else x)) }

/-- The pushes of an engine that are due at a count, with the flags that the word of each alone has set. -/
def Core.flagsDue (c : Core) (now : Nat) (e : Engine) : List (WordRef × BitVec 5) :=
  (c.o.toList.flatMap id).filterMap (fun x => if x.ready = now ∧ x.word.eng = e then some (x.word, x.flags) else none)

/-- A csrr of FLAGS_VX or FLAGS_MX into a slot: what it read of pushes that are due now goes again where one is lost at this
count (R79, R203; log 129). -/
def Core.readsFlags (c : Core) (now slot idx : Nat) : Core :=
  match idx with
  | 0x010 => { c with flagRead := some (slot, c.flagsDue now .vx) }
  | 0x011 => { c with flagRead := some (slot, c.flagsDue now .mx) }
  | _ => c

/-- The flags of a lost push are clear in the register that a csrr of this count has written. -/
def Core.unreadFlags (c : Core) (w : WordRef) : Core :=
  match c.flagRead with
  | none => c
  | some (k, l) => (l.find? (fun x => x.1 == w)).elim c (fun x => c.wsSlot k (vget 0 c.s k &&& ~~~(x.2.setWidth 64)))

/-- Flags joined to FLAGS_NMU. -/
def Core.orNmu (c : Core) (f : BitVec 5) : Core := { c with flagsNmu := c.flagsNmu ||| f }

/-- A RW1C write: the bits written as 1 are cleared (R112). -/
def cleared {w : Nat} (old : BitVec w) (v : Reg) : BitVec w := old &&& ~~~(v.setWidth w)

/-- The six conditions of cmp and cmpi (R39, R91). -/
inductive Cond where
  | eq | ne | lt | ge | ltu | geu
  deriving DecidableEq, Repr

/-- Whether a condition holds of two 64-bit values (R91). -/
def condHolds : Cond → Reg → Reg → Bool
  | .eq, a, b => a == b
  | .ne, a, b => a != b
  | .lt, a, b => BitVec.slt a b
  | .ge, a, b => !BitVec.slt a b
  | .ltu, a, b => BitVec.ult a b
  | .geu, a, b => !BitVec.ult a b

end Sys2Proof.Machine
end

