-- ==== Sys2Proof/Machine/Operands.lean ====
section
/-! DEFINITION. Operand forms of the sequencer and the access engine: immediates, effective addresses, lease checks of
scalar operands, and where a transfer goes. -/

namespace Sys2Proof.Machine

/-! ## Immediates (R90, R91, R101, R156) -/

/-- A field sign-extended to 64 bits. -/
def sext {w : Nat} (m : BitVec w) : Reg := m.signExtend 64

/-- The access size of an sz field (R101). -/
def sizeOf (z : BitVec 2) : Nat := 2 ^ z.toNat

/-- The effective address of a scalar access: s[sa] + off × size, wrapping (R101). -/
def Core.ea (c : Core) (a : BitVec 6) (z : BitVec 2) (o : BitVec 7) : Nat :=
  (c.rs a.toNat + sext o * BitVec.ofNat 64 (sizeOf z)).toNat

/-- An address in the stream that lies `off` words from the word being executed. -/
def State.target (s : State) (off : Int) : Nat := ((s.cur.pc : Int) + 4 * off).toNat

/-! ## Lease checks of scalar operands (R77, R88, log 30) -/

/-- s[i] is under no lease; s0 is leased as any other destination (R88). -/
def State.sFree (s : State) (i : Nat) : Check := leaseChk s.me s.now 0 (sSlot s.me i) i

/-- p[i] is under no lease; p0 is leased as any other destination (R88). -/
def State.pFree (s : State) (i : Nat) : Check := leaseChk s.me s.now 1 i i

/-- A lease on s[i] until λ ticks after issue. -/
def State.leaseS (s : State) (i lam : Nat) : State := s.lease 0 (sSlot s.me i) (sSlot s.me i) lam

/-- A lease on p[i] until λ ticks after issue. -/
def State.leaseP (s : State) (i lam : Nat) : State := s.lease 1 i i lam

/-- In waypoint code the word being executed completes n ticks after its issue, and the next word waits for that (R100).
DESIGN CHOICE: for a word that is no load n is 0 and it completes as it issues, before a write of its own performs, but for
the results of mul and div, which complete at ρ − 1 (log 124). -/
def State.completesAt (s : State) (n : Nat) : State :=
  if s.cur.word.wp then s.modMe (fun c => { c with sq := { c.sq with ready := c.sq.ready + n } }) else s

/-! ## Modes (R100, R111, R118) -/

/-- A word that is defined only in waypoint code: in a kind-0 page it raises the waypoint-only fault, and none of its
other checks is made there (R100; log 40). -/
def State.waypointWord (s : State) (checks : List Check) (eff : State → State) : Out :=
  s.word (if s.cur.word.wp then checks else [some (0x54, 0)]) eff

/-- The context of the core is at control level. -/
def State.privileged (s : State) : Check := chk (!(s.ctxOf s.id).control) 0x55 0

/-- A checked word issues without shift (R76). -/
def State.unshifted (s : State) : Check := chk (s.cur.word.issue != s.cur.word.nominal) 0x05 0

end Sys2Proof.Machine
end

