-- ==== Sys2Proof/Machine/Fetch.lean ====
section
/-! DEFINITION. Fetching words, the tick at which a stream's head issues, the issue of a word, and the checks of a
transfer. -/

namespace Sys2Proof.Machine

/-- The code of a page kind (R51). -/
def kindNo : PageKind → Nat
  | .sqTimed => 0 | .sqWaypoint => 1 | .vx => 2 | .mx => 3 | .ax => 4

/-- The kind of page that a stream of a core fetches from (R51). -/
def Core.pageKind (c : Core) : Engine → PageKind
  | .vx => .vx
  | .mx => .mx
  | .ax => .ax
  | _ => if c.waypoint then .sqWaypoint else .sqTimed

/-- The word at an address of a page of a kind; none where no such page is fetchable (R51, R56). -/
def State.wordAt (s : State) (d c : Nat) (k : PageKind) (va : Nat) : Option IWord :=
  match s.page? d c va with
  | none => none
  | some p =>
    if p.exec = some (kindNo k) then
      some (BitVec.ofNat 32 (leNat (readBytes (s.dev d).hbm (p.frame + (va - p.va)) 4)))
    else none

/-- The words at an address: the first, and the one after it where the page goes on. -/
def State.wordsAt (s : State) (d c : Nat) (k : PageKind) (va : Nat) : Option (List IWord) :=
  (s.wordAt d c k va).map (fun w => w :: (s.wordAt d c k (va + 4)).toList)

/-- The head of a stream after its reps have been followed: an address at the end of a body goes back to the body's
first word while iterations are left (R158, R159). The Bool says that a new iteration of some level begins (R160). -/
def wrapHead : List Rep → Nat → Nat × List Rep × Bool
  | [], pc => (pc, [], false)
  | r :: rest, pc =>
    if pc = r.stop then
      (if 0 < r.left then (r.first, { r with left := r.left - 1 } :: rest, true) else wrapHead rest pc)
    else (pc, r :: rest, false)

/-- The leg tick at which a head with this IDLE field issues, its shift, and whether it issues within the occupancy
of the word before it (R21, R184). -/
def Stream.due (st : Stream) (idle : Nat) : Nat × Nat × Bool :=
  let t := st.ready + idle
  if t < st.last + st.occ then (t, st.shift, true)
  else if t < st.last + st.hold then (st.last + st.hold, st.shift + (st.last + st.hold - t), false)
  else (t, st.shift, false)

/-- The itinerary lets its cores issue at this count: it runs, and no stop tick has been reached (R85, R308). -/
def Run.issues (r : Run) (now : Nat) : Bool :=
  r.st == .running && (r.halt.map (fun h => decide (now < h.1 + 8192))).getD true

/-- A stream has a head that waits for its tick alone. -/
def Core.waits (c : Core) (e : Engine) : Bool :=
  (c.stream e).st == .running && (e != .sq || c.wait == .none)

/-- The count at which the head of a stream issues; the tick `ready` where it cannot be fetched. -/
def State.dueOf (s : State) (id : CoreId) (e : Engine) : Option Nat :=
  let c := s.coreAt id
  if c.waits e then
    let st := c.stream e
    let pc := (wrapHead st.reps st.pc).1
    match s.wordAt id.dev (s.ctxNo id) (c.pageKind e) pc with
    | none => some (c.base + st.ready)
    | some w => some (c.base + (st.due (idleOf w).toNat).1)
  else none

/-- The streams in the order in which they issue within a tick (R70, R83). -/
def engines : List Engine := [.sq, .ax, .vx, .mx]

/-- id comes before id' in the order device, partition, core. -/
def coreBefore (a b : CoreId) : Bool :=
  if a.dev ≠ b.dev then a.dev < b.dev else if a.part ≠ b.part then a.part < b.part else a.core < b.core

/-- The first of two candidates in core order. -/
def firstOf (a b : CoreId × Engine) : CoreId × Engine := if coreBefore b.1 a.1 then b else a

/-- Of two unwinds that meet on a core the earlier governs, at equal counts the one of the lower region (R312). -/
def unwindBeats (v u : Unwind) : Bool :=
  decide (v.t < u.t ∧ u.t ≤ v.t + 8192) || (v.t == u.t && decide (v.region < u.region)) ||
    (v.t == u.t && v.region == u.region && decide (v.herd < u.herd))

/-- An unwind in its place: by count, region and herd. -/
def insertUnwind (u : Unwind) : List Unwind → List Unwind
  | [] => [u]
  | v :: r => if unwindBeats u v || decide (u.t < v.t) then u :: v :: r else v :: insertUnwind u r

/-- The unwinds that govern among those of one core: each that no governing one before it beats (R312). -/
def standing (us : List Unwind) : List Unwind :=
  (us.foldr insertUnwind []).foldl (fun l u => if l.any (fun v => unwindBeats v u) then l else l ++ [u]) []

/-- The unwinds of an itinerary that govern on a core (R312). -/
def Run.governing (r : Run) (id : CoreId) : List Unwind :=
  standing (r.unwinds.filter (fun u => ((r.herds[u.herd]?).getD []).contains id))

/-- The unwind that a core follows at this count: none where a halt has stopped it by then (R312, R313). -/
def Run.unwindsAt (r : Run) (id : CoreId) (now : Nat) : Option Unwind :=
  if (r.halt.map (fun h => decide (now < h.1 + 8192))).getD true then
    (r.governing id).find? (fun u => u.t + 8192 == now)
  else .none

/-- The stream of a core that issues now: none at the tick of an unwind (R313). -/
def State.dueEngine (s : State) (id : CoreId) : Option Engine :=
  if (s.runOf id).issues s.now && ((s.runOf id).unwindsAt id s.now).isNone then
    engines.find? (fun e =>
      let c := s.coreAt id
      c.waits e && c.base + (c.stream e).ready ≤ s.now && ((s.dueOf id e).map (fun t => decide (t ≤ s.now))).getD false)
  else none

/-- The stream that issues next at this count. -/
def State.firstDue (s : State) : Option (CoreId × Engine) :=
  s.cores.foldl (fun best x =>
    match s.dueEngine x.1 with
    | none => best
    | some e => some ((best.map (firstOf · (x.1, e))).getD (x.1, e))) none

/-- The word of a stream's head as a reference for this count (R76, R307). -/
def State.headRef (s : State) (id : CoreId) (e : Engine) (shift : Nat) : WordRef :=
  let c := s.coreAt id
  { id := id, run := c.run.getD s.nextRun, eng := e, leg := c.leg, issue := s.now - c.base, nominal := s.now - c.base - shift,
    wp := e == .sq && c.waypoint }

/-- A stream that has issued the word at pc, n words long, at a tick. -/
def Stream.issuedAt (st : Stream) (pc n tick now shift gap : Nat) (reps : List Rep) : Stream :=
  { st with pc := pc + 4 * n, ready := tick + 1 + gap, shift := shift, last := tick, occ := 1, hold := 1,
            reps := reps, issued := some now }

/-- The word is a yield. -/
def isYield : Instr → Bool
  | .yieldW _ => true
  | _ => false

/-- What the place of its issue earns a word: occupancy conflict within the occupancy of the word before it (R184), yield
fault where it is SQ's word of a listed tick and no yield (R75). -/
def Core.barOf (c : Core) (w : WordRef) (i : Instr) (early : Bool) : Option Nat :=
  if early then some 0x15
  else if w.eng == .sq && !w.wp && c.yieldDue == some w.issue && !isYield i then some 0x09
  else none

/-- The head at pc, i, n words long, has issued: the stream stands behind it, `cur` names it, ARB has turned where a
new iteration begins (R160), and the spoor record of the issue is written (R325). -/
def State.took (s : State) (id : CoreId) (e : Engine) (w : WordRef) (bits : IWord) (pc n shift : Nat) (bar : Option Nat)
    (reps : List Rep) (turn : Bool) : State :=
  let c := s.coreAt id
  let gap := if w.wp then Config.waypointGap s.free else 0
  let s := if w.wp then s.drawn else s
  let s := s.setCore id
    ((c.modStream e (fun st => st.issuedAt pc n w.issue s.now shift gap reps)).modArb (turn && e == .ax))
  let s := { s with cur := { word := w, pc := pc, bits := bits, bar := bar } }
  if s.spoorOn id (engineNo e) then
    s.spoorCore id e 0 w.issue (bits.setWidth 128 ||| BitVec.ofNat 128 (pc % 2 ^ 64) <<< 32)
  else s

/-! ## Transfers (R51, R55, R99) -/

/-- A transfer to an address is to a word that is not a tail; its page is checked as well where that is not left to the
word that issues there. An address that is no multiple of 4 is the target of no transfer (R99). -/
def State.transferChks (s : State) (k : PageKind) (fetch : Bool) (a : Nat) : List Check :=
  let w := s.wordAt s.id.dev (s.ctxNo s.id) k a
  [chk (fetch && w.isNone) 0x19 (addrDetail .code a),
   chk (a % 4 != 0 || (w.map isTail).getD false) 0x53 (addrDetail .code a)]

/-- The next word of SQ is at an address. -/
def State.goTo (s : State) (a : Nat) : State := s.modMe (fun c => { c with sq := { c.sq with pc := a } })

/-! ## What the fetch of a word consumes, and streams by their codes -/

/-- A poisoned unit that the fetch of a word, a head or a tail, consumes: its entry of the split buffer (R94), its HBM line
(R310). -/
def State.fetchPoison (s : State) (id : CoreId) (e : Engine) (pc : Nat) : Check :=
  if e == .sq && (s.coreAt id).split.any (fun x => x.2 == pc) then some (0x42, unitDetail 5 pc)
  else if s.hbmPoisoned id.dev (s.ctxNo id) pc 4 then some (0x42, unitDetail 6 (pc / 64 * 64))
  else none

/-- The engine of a strm code. -/
def strmEngine : Strm → Engine
  | .vx => .vx
  | .mx => .mx
  | .ax => .ax

/-- The first effect in flight is taken from the agenda and acts for its core or device. -/
def State.taking (s : State) (p : Pend) (rest : List Pend) : State :=
  { s with agenda := rest, cur := { Cur.none with word := { Cur.none.word with id := p.who, issue := s.now } } }

/-! ## The count (R57, R84, R324) -/

/-- A group hold covers a count (R84). -/
def Hold.covers (h : Hold) (t : Nat) : Bool := h.start ≤ t && t < h.start + h.ticks

/-- The tick of this count is held on a device: by a group hold, a pace pulse, or the thermal trip (R84, R262). -/
def State.heldOn (s : State) (d : Nat) : Bool :=
  s.holds.any (·.covers s.now) || (s.dev d).pacePulses.contains s.now || (s.dev d).tripped

/-- Counters after n ticks of an engine in a state of R324. -/
def Counters.spent (k : Counters) (e st n : Nat) : Counters :=
  { k with acc := vset k.acc (4 * e + st) (vget 0 k.acc (4 * e + st) + BitVec.ofNat 64 n) }

/-- The accounting of one stream over the counts from now to t, between which no word issues (R324): at the tick of an
unwind it stands stopped. -/
def State.accountStream (s : State) (id : CoreId) (t : Nat) (k : Counters) (e : Engine) : Counters :=
  let c := s.coreAt id
  let st := c.stream e
  let i := engineNo e
  let issued := if st.issued = some s.now then 1 else 0
  let k := k.spent i 0 issued
  let rest := t - s.now - issued
  let unwinding := if c.unwoundAt = some s.now then 1 else 0
  if st.st != .running then k.spent i 3 rest
  else
    let k := k.spent i 3 unwinding
    let rest := rest - unwinding
    let held := match s.wordAt id.dev (s.ctxNo id) (c.pageKind e) (wrapHead st.reps st.pc).1 with
      | none => 0
      | some w =>
        let due := st.due (idleOf w).toNat
        let from' := c.base + (due.1 - due.2.1)
        if c.waits e then min rest (t - from') else 0
    (k.spent i 2 held).spent i 1 (rest - held)

/-- The accounting of a core over the counts from now to t (R324). -/
def State.accountCore (s : State) (t : Nat) (id : CoreId) : Core :=
  let c := s.coreAt id
  let k := engines.foldl (s.accountStream id t) c.counters
  let k := { k with holdt := k.holdt + BitVec.ofNat 64 (if s.heldOn id.dev then t - s.now else 0) }
  { c with counters := k, before := (k, c.shadows) }

/-- A device over the counts from now to t: what it was held by itself, the ticks that a lossless trace held (R326), and
the pulses still to come. -/
def State.accountDevice (s : State) (t d : Nat) (x : Device) : Device :=
  let n := t - s.now
  let all := s.holds.any (·.covers s.now)
  let trace := s.holds.any (fun h => h.cause == .trace && h.covers s.now)
  { x with perturb := x.perturb + BitVec.ofNat 64 (if trace then n else 0),
           selfHeld := x.selfHeld + (if !all && s.heldOn d then n else 0),
           pacePulses := x.pacePulses.filter (fun p => t ≤ p) }

/-- The next count at which anything can happen: an effect, the issue of a head, or the edge of a hold. -/
def State.nextCount (s : State) : Nat :=
  let dues := s.cores.flatMap (fun x => if (s.runOf x.1).issues s.now then engines.filterMap (s.dueOf x.1) else [])
  let edges := s.holds.flatMap (fun h => [h.start, h.start + h.ticks])
  let pulses := s.devs.flatMap (fun x => x.2.pacePulses.flatMap (fun t => [t, t + 1]))
  let all := ((s.agenda.map (·.at')) ++ dues ++ edges ++ pulses).filter (fun t => s.now < t)
  match all with
  | [] => s.now + 1
  | t :: r => r.foldl min t

/-- The count advances: what registers hold as the count ends is what words of the next one read (R111, R262, R272). -/
def State.advanced (s : State) : State :=
  let t := s.nextCount
  let devs := s.devs.map (fun x => (x.1, s.accountDevice t x.1 x.2))
  { s with
    cores := s.cores.map (fun x => (x.1, s.accountCore t x.1)),
    devs := devs,
    past := { devs := devs, epoch := s.epoch, trigger := s.trigger },
    groupHeld := s.groupHeld + (if s.holds.any (·.covers s.now) then t - s.now else 0),
    holds := s.holds.filter (fun h => t < h.start + h.ticks),
    now := t }

/-! ## A word placed where the next step fetches it (log 3, log 4) -/

/-- Where the placed word lies: the first page of context 0 of device 0, mapped one to one. -/
def fetchBase : Nat := 0x10000

/-- The engine that reads a kind of page. -/
def engineOf : PageKind → Engine
  | .sqTimed | .sqWaypoint => .sq
  | .vx => .vx
  | .mx => .mx
  | .ax => .ax

/-- A stream whose head is the placed word, due at leg tick 16 whatever its IDLE field. -/
def placedStream (w : Nat) : Stream :=
  { Stream.idle with st := .running, pc := fetchBase, ready := 16 - (w / 2 ^ 28) % 16 }

/-- The placed itinerary: id 1, one leg, shape V128 on partition 0 of device 0, running at leg tick 16. -/
def placedRun (s : State) : Run :=
  { Run.none with record := BitVec.ofNat 512 (2 ^ 256 + 2 ^ 264), members := [(0, 0)], st := .running,
                  departs := s.now - 16, base := s.now - 16 }

/-- s with the word stored at the head of the one stream that is due now. -/
def State.placing (s : State) (nbits w : Nat) : State :=
  let k := (tableKind nbits w).getD .sqTimed
  let words := tableWords nbits w
  let id : CoreId := ⟨0, 0, 0⟩
  let s := { s with agenda := [], now := max s.now 16 }
  let s := s.modDev 0 (fun d => { d with hbm := (words.foldl (fun (m : Memory × Nat) x =>
    (writeBytes m.1 m.2 (leBytes 4 x.toNat), m.2 + 4)) (d.hbm, fetchBase)).1 })
  let s := s.modCtx 0 0 (fun x => { x with pages :=
    [⟨fetchBase, 0x10000, fetchBase, some (kindNo k), false, false, 0, [], 0⟩] })
  let r := s.nextRun
  let s := { s with runs := put r (placedRun s) s.runs, nextRun := r + 1 }
  let c := { Core.fresh with run := some r, base := s.now - 16, waypoint := k == PageKind.sqWaypoint }
  { s with cores := [(id, c.modStream (engineOf k) (fun _ => placedStream w))] }

end Sys2Proof.Machine
end

