-- ==== Sys2Proof/Machine/Access.lean ====
section
/-! DEFINITION. Address arithmetic of AX (R154–R157): λ = 1, no trap, no flag. -/

namespace Sys2Proof.Machine

/-- A register form: a[d] is written from a[a] and a[b] (R155). -/
def axAlu (f : Reg → Reg → Reg) (d a b : BitVec 5) (s : State) : Out :=
  s.word [] (fun s => s.modMe (fun c => c.wa d.toNat (f (c.ra a.toNat) (c.ra b.toNat))))

/-- An immediate form: a[d] is written from a[a] (R155). -/
def axImm (f : Reg → Reg) (d a : BitVec 5) (s : State) : Out :=
  s.word [] (fun s => s.modMe (fun c => c.wa d.toNat (f (c.ra a.toNat))))

/-- The SP placement of an address: row in bits 14:5, bank in bits 4:0 (R153, R157). -/
def placement (x : Reg) : Reg :=
  let l := (x.toNat >>> 6) % 32768
  BitVec.ofNat 64 ((l >>> 5) <<< 5 + (l ^^^ (l >>> 5)) % 32)

/-- aadd ad, aa, ab (R155). -/
def execAadd (_g : BitVec 4) (d a b : BitVec 5) (s : State) : Out :=
  axAlu (fun x y => x + y) d a b s

/-- asub ad, aa, ab (R155). -/
def execAsub (_g : BitVec 4) (d a b : BitVec 5) (s : State) : Out :=
  axAlu (fun x y => x - y) d a b s

/-- aand ad, aa, ab (R155). -/
def execAand (_g : BitVec 4) (d a b : BitVec 5) (s : State) : Out :=
  axAlu (fun x y => x &&& y) d a b s

/-- aor ad, aa, ab (R155). -/
def execAor (_g : BitVec 4) (d a b : BitVec 5) (s : State) : Out :=
  axAlu (fun x y => x ||| y) d a b s

/-- axor ad, aa, ab (R155). -/
def execAxor (_g : BitVec 4) (d a b : BitVec 5) (s : State) : Out :=
  axAlu (fun x y => x ^^^ y) d a b s

/-- ashl ad, aa, ab (R155). -/
def execAshl (_g : BitVec 4) (d a b : BitVec 5) (s : State) : Out :=
  axAlu (fun x y => x <<< (y.toNat % 64)) d a b s

/-- ashr ad, aa, ab (R155). -/
def execAshr (_g : BitVec 4) (d a b : BitVec 5) (s : State) : Out :=
  axAlu (fun x y => x >>> (y.toNat % 64)) d a b s

/-- asra ad, aa, ab (R155). -/
def execAsra (_g : BitVec 4) (d a b : BitVec 5) (s : State) : Out :=
  axAlu (fun x y => x.sshiftRight (y.toNat % 64)) d a b s

/-- aaddi ad, aa, imm (R155). -/
def execAaddi (_g : BitVec 4) (d a : BitVec 5) (m : BitVec 11) (s : State) : Out :=
  axImm (fun x => x + sext m) d a s

/-- aandi ad, aa, imm (R155). -/
def execAandi (_g : BitVec 4) (d a : BitVec 5) (m : BitVec 11) (s : State) : Out :=
  axImm (fun x => x &&& sext m) d a s

/-- ashli ad, aa, imm (R155). -/
def execAshli (_g : BitVec 4) (d a : BitVec 5) (m : BitVec 11) (s : State) : Out :=
  axImm (fun x => x <<< m.toNat) d a s

/-- ashri ad, aa, imm (R155). -/
def execAshri (_g : BitVec 4) (d a : BitVec 5) (m : BitVec 11) (s : State) : Out :=
  axImm (fun x => x >>> m.toNat) d a s

/-- ali.l ad, imm (R156). -/
def execAliL (_g : BitVec 4) (d : BitVec 5) (m : BitVec 37) (s : State) : Out :=
  s.word [] (fun s => s.modMe (fun c => c.wa d.toNat (sext m)))

/-- nli nd, imm (R156). -/
def execNli (_g d : BitVec 4) (m : BitVec 17) (s : State) : Out :=
  s.word [] (fun s => s.modMe (fun c => c.wn d.toNat (m.setWidth 32)))

/-- naddi nd, na, imm (R156). -/
def execNaddi (_g d n : BitVec 4) (m : BitVec 13) (s : State) : Out :=
  s.word [] (fun s => s.modMe (fun c => c.wn d.toNat (c.rn n.toNat + m.signExtend 32)))

/-- nmov nd, aa (R156). -/
def execNmov (_g d : BitVec 4) (a : BitVec 5) (s : State) : Out :=
  s.word [] (fun s => s.modMe (fun c => c.wn d.toNat ((c.ra a.toNat).setWidth 32)))

/-- amov ad, na (R156). -/
def execAmov (_g : BitVec 4) (d : BitVec 5) (n : BitVec 4) (s : State) : Out :=
  s.word [] (fun s => s.modMe (fun c => c.wa d.toNat ((c.rn n.toNat).setWidth 64)))

/-- aswz ad, aa, imm (R157). -/
def execAswz (_g : BitVec 4) (d a : BitVec 5) (m : BitVec 11) (s : State) : Out :=
  axImm (fun x => placement (x + sext m)) d a s

end Sys2Proof.Machine
end

