-- ==== Sys2Proof/Machine/Numbers.lean ====
section
/-! DEFINITION. Numbers (R119–R141): formats, exact values, one rounding of an exact value with its flags, conversions,
and the special functions. A result carries the flags of R133 that it sets and whether it is a NaN (R142). -/

namespace Sys2Proof.Machine

/-! ## Formats (R120, R121, R125) -/

/-- A floating format: exponent and fraction bits, bias, whether it has infinities. -/
structure Fmt where
  ebits : Nat
  mbits : Nat
  bias : Nat
  inf : Bool
  deriving DecidableEq, Repr

/-- The float formats by tag. -/
def fmtOf : Tag → Option Fmt
  | .f32 => some ⟨8, 23, 127, true⟩
  | .f16 => some ⟨5, 10, 15, true⟩
  | .bf16 => some ⟨8, 7, 127, true⟩
  | .e4m3 => some ⟨4, 3, 7, false⟩
  | .e5m2 => some ⟨5, 2, 15, true⟩
  | _ => none

/-- FP32. -/
def fF32 : Fmt := ⟨8, 23, 127, true⟩

/-- Element width of a tag in bytes (R125); 0 for NONE. -/
def widthOf : Tag → Nat
  | .none => 0
  | .f32 | .i32 | .c32 => 4
  | .f16 | .bf16 | .i16 => 2
  | .e4m3 | .e5m2 | .i8 | .u8 => 1

/-- The code of a tag (R125). -/
def tagCode : Tag → Nat
  | .none => 0 | .f32 => 1 | .f16 => 2 | .bf16 => 3 | .e4m3 => 4 | .e5m2 => 5
  | .i32 => 8 | .i16 => 9 | .i8 => 10 | .u8 => 11 | .c32 => 16

/-- The tag of a float code of R43. -/
def floatTag (f : Nat) : Tag :=
  match f with
  | 0 => .f32 | 1 => .f16 | 2 => .bf16 | 3 => .e4m3 | 4 => .e5m2 | _ => .none

/-- The tag of an integer code of R43. -/
def intTag (f : Nat) : Tag :=
  match f with
  | 0 => .i32 | 1 => .i16 | 2 => .i8 | 3 => .u8 | _ => .none

/-- Bits of a format. -/
def Fmt.bits (f : Fmt) : Nat := 1 + f.ebits + f.mbits

/-- The largest exponent code. -/
def Fmt.emax (f : Fmt) : Nat := 2 ^ f.ebits - 1

/-- The bits of a sign, an exponent code and a fraction. -/
def Fmt.pack (f : Fmt) (neg : Bool) (e m : Nat) : Nat := (neg.toNat * 2 ^ f.ebits + e) * 2 ^ f.mbits + m

/-- The quiet NaN that the device produces (R121, R123). -/
def Fmt.qnan (f : Fmt) : Nat := if f.inf then f.pack false f.emax (2 ^ (f.mbits - 1)) else f.pack false f.emax (2 ^ f.mbits - 1)

/-- Infinity of a sign. -/
def Fmt.infinity (f : Fmt) (neg : Bool) : Nat := f.pack neg f.emax 0

/-- The largest finite value of a sign (R121). -/
def Fmt.largest (f : Fmt) (neg : Bool) : Nat :=
  if f.inf then f.pack neg (f.emax - 1) (2 ^ f.mbits - 1) else f.pack neg f.emax (2 ^ f.mbits - 2)

/-! ## Exact values -/

/-- A value: a NaN, quiet or signalling; an infinity; or (−1)^neg × m × 2^e. A zero has m = 0 and its sign. -/
inductive Val where
  | nan (signalling : Bool)
  | inf (neg : Bool)
  | fin (neg : Bool) (m : Nat) (e : Int)
  deriving DecidableEq, Repr

/-- The value of a bit pattern (R120, R121). -/
def valOf (f : Fmt) (x : Nat) : Val :=
  let m := x % 2 ^ f.mbits
  let e := (x / 2 ^ f.mbits) % 2 ^ f.ebits
  let neg := (x / 2 ^ (f.mbits + f.ebits)) % 2 == 1
  if e = 0 then .fin neg m (1 - (f.bias : Int) - f.mbits)
  else if e = f.emax ∧ f.inf then (if m = 0 then .inf neg else .nan (m < 2 ^ (f.mbits - 1)))
  else if e = f.emax ∧ m = 2 ^ f.mbits - 1 then .nan false
  else .fin neg (2 ^ f.mbits + m) ((e : Int) - f.bias - f.mbits)

/-- The value of an integer. -/
def valOfInt (i : Int) : Val := .fin (i < 0) i.natAbs 0

/-- Two's complement of n bits as an integer. -/
def signed (n x : Nat) : Int := if 2 ^ (n - 1) ≤ x % 2 ^ n then (x % 2 ^ n : Int) - 2 ^ n else x % 2 ^ n

/-- The value of an element of an integer format (R124). -/
def intOf (t : Tag) (x : Nat) : Int :=
  match t with
  | .i32 | .c32 => signed 32 x
  | .i16 => signed 16 x
  | .i8 => signed 8 x
  | _ => x

/-- The range of an integer format (R124). -/
def intRange : Tag → Int × Int
  | .i32 | .c32 => (-2 ^ 31, 2 ^ 31 - 1)
  | .i16 => (-2 ^ 15, 2 ^ 15 - 1)
  | .i8 => (-2 ^ 7, 2 ^ 7 - 1)
  | _ => (0, 255)

/-- The bits of an integer in n bits. -/
def intBits (n : Nat) (i : Int) : Nat := (i % (2 ^ n : Int)).toNat

/-- m × 2^e as an integer multiple of 2^low, for low ≤ e. -/
def scaled (neg : Bool) (m : Nat) (e low : Int) : Int :=
  let v : Int := (m * 2 ^ (e - low).toNat : Nat)
  if neg then -v else v

/-! ## Flags of a result (R133) -/

/-- inexact. -/
def flInexact : BitVec 5 := 1
/-- overflow. -/
def flOverflow : BitVec 5 := 2
/-- underflow. -/
def flUnderflow : BitVec 5 := 4
/-- invalid. -/
def flInvalid : BitVec 5 := 8
/-- saturate. -/
def flSaturate : BitVec 5 := 16

/-- A result: its bits, the flags it sets, whether it is a NaN. -/
structure Res where
  bits : Nat
  flags : BitVec 5
  nan : Bool
  deriving DecidableEq, Repr

/-- The NaN of a format (R123, R133). -/
def resNan (f : Fmt) : Res := ⟨f.qnan, flInvalid, true⟩

/-! ## Rounding (R128–R130) -/

/-- Rounding modes (R41). -/
inductive RMode where
  | rne | rz | ru | rd
  deriving DecidableEq, Repr

/-- The mode of an rm field. -/
def rmodeOf (r : BitVec 2) : RMode :=
  match r.toNat with
  | 0 => .rne | 1 => .rz | 2 => .ru | _ => .rd

/-- Whether q + rest, 0 ≤ rest < 1, rounds up in magnitude: `rest` as numerator of a denominator 2^k. -/
def roundsUp (rm : RMode) (neg : Bool) (q rest den : Nat) : Bool :=
  match rm with
  | .rne => decide (den < 2 * rest) || (2 * rest == den && q % 2 == 1)
  | .rz => false
  | .ru => rest != 0 && !neg
  | .rd => rest != 0 && neg

/-- m × 2^e as the nearest multiple of 2^g in the mode, and whether that is exact. -/
def roundTo (rm : RMode) (neg : Bool) (m : Nat) (e g : Int) : Nat × Bool :=
  if g ≤ e then (m * 2 ^ (e - g).toNat, true)
  else
    let den := 2 ^ (g - e).toNat
    let q := m / den
    let rest := m % den
    (if roundsUp rm neg q rest den then q + 1 else q, rest == 0)

/-- The exponent of the highest bit of m × 2^e, for m > 0. -/
def topExp (m : Nat) (e : Int) : Int := (Nat.log2 m : Int) + e

/-- The resolution of an overflow in a format with infinities (R129). -/
def overflowBits (f : Fmt) (rm : RMode) (neg : Bool) : Nat :=
  match rm with
  | .rne => f.infinity neg
  | .rz => f.largest neg
  | .ru => if neg then f.largest neg else f.infinity neg
  | .rd => if neg then f.infinity neg else f.largest neg

/-- E4M3 beyond 448 or infinite (R130). -/
def saturated (f : Fmt) (nv neg : Bool) : Res :=
  if nv then resNan f else ⟨f.largest neg, flSaturate ||| flInexact, false⟩

/-- One rounding of an exact value to a format (R128–R130, R133). DEDUCED: underflow is judged on the value delivered: one that
rounds up to the smallest normal is not tiny (log 59). -/
def roundVal (f : Fmt) (rm : RMode) (nv : Bool) : Val → Res
  | .nan _ => resNan f
  | .inf neg => if f.inf then ⟨f.infinity neg, 0, false⟩ else saturated f nv neg
  | .fin neg m e =>
    if m = 0 then ⟨f.pack neg 0 0, 0, false⟩
    else
      let emin : Int := 1 - (f.bias : Int)
      let g := max (topExp m e) emin - f.mbits
      let r := roundTo rm neg m e g
      let up := r.1 == 2 ^ (f.mbits + 1)
      let q := if up then 2 ^ f.mbits else r.1
      let g := if up then g + 1 else g
      if q < 2 ^ f.mbits then
        ⟨f.pack neg 0 q, if r.2 then 0 else flInexact ||| flUnderflow, false⟩
      else
        let code := (g + f.mbits + f.bias).toNat
        let top := if f.inf then f.emax - 1 else f.emax
        let beyond := decide (top < code) || (!f.inf && code == top && q == 2 ^ (f.mbits + 1) - 1)
        if beyond then
          (if f.inf then ⟨overflowBits f rm neg, flOverflow ||| flInexact, false⟩ else saturated f nv neg)
        else ⟨f.pack neg code (q - 2 ^ f.mbits), if r.2 then 0 else flInexact, false⟩

/-- Round to nearest even, without the E4M3 option. -/
def rne (f : Fmt) (v : Val) : Res := roundVal f .rne false v

/-! ## Exact arithmetic (R128, R135, R137) -/

/-- −v. -/
def negV : Val → Val
  | .nan s => .nan s
  | .inf n => .inf !n
  | .fin n m e => .fin (!n) m e

/-- |v|. -/
def absV : Val → Val
  | .nan s => .nan s
  | .inf _ => .inf false
  | .fin _ m e => .fin false m e

/-- a + b; the sign of an exact zero sum of opposite signs follows the mode (R128). -/
def addV (rm : RMode) : Val → Val → Val
  | .nan _, _ => .nan false
  | _, .nan _ => .nan false
  | .inf a, .inf b => if a = b then .inf a else .nan false
  | .inf a, .fin _ _ _ => .inf a
  | .fin _ _ _, .inf b => .inf b
  | .fin na ma ea, .fin nb mb eb =>
    if ma = 0 ∧ mb = 0 then (if na = nb then .fin na 0 0 else .fin (rm == .rd) 0 0)
    else
      let low := if ma = 0 then eb else if mb = 0 then ea else min ea eb
      let s := (if ma = 0 then 0 else scaled na ma ea low) + (if mb = 0 then 0 else scaled nb mb eb low)
      if s = 0 then .fin (rm == .rd) 0 0 else .fin (s < 0) s.natAbs low

/-- a × b. -/
def mulV : Val → Val → Val
  | .nan _, _ => .nan false
  | _, .nan _ => .nan false
  | .inf a, .inf b => .inf (a != b)
  | .inf a, .fin b m _ => if m = 0 then .nan false else .inf (a != b)
  | .fin a m _, .inf b => if m = 0 then .nan false else .inf (a != b)
  | .fin na ma ea, .fin nb mb eb => .fin (na != nb) (ma * mb) (ea + eb)

/-- a ÷ b to more than any format's precision: 80 quotient bits, the last one sticky. -/
def divV : Val → Val → Val
  | .nan _, _ => .nan false
  | _, .nan _ => .nan false
  | .inf _, .inf _ => .nan false
  | .inf a, .fin b _ _ => .inf (a != b)
  | .fin a _ _, .inf b => .fin (a != b) 0 0
  | .fin na ma ea, .fin nb mb eb =>
    if mb = 0 then (if ma = 0 then .nan false else .inf (na != nb))
    else if ma = 0 then .fin (na != nb) 0 0
    else
      let k := 80 + Nat.log2 mb - Nat.log2 ma
      let n := ma * 2 ^ k
      .fin (na != nb) (2 * (n / mb) + (if n % mb = 0 then 0 else 1)) (ea - eb - k - 1)

/-- The binary digits of ⌊√n⌋ from bit k − 1 down, given the root r of the digits above. -/
def isqrtFrom (n : Nat) : Nat → Nat → Nat
  | 0, r => r
  | k + 1, r => if (r + 2 ^ k) * (r + 2 ^ k) ≤ n then isqrtFrom n k (r + 2 ^ k) else isqrtFrom n k r

/-- ⌊√n⌋. -/
def isqrt (n : Nat) : Nat := isqrtFrom n (Nat.log2 n / 2 + 1) 0

/-- √v to more than FP32 precision, the last bit sticky. -/
def sqrtV : Val → Val
  | .nan _ => .nan false
  | .inf neg => if neg then .nan false else .inf false
  | .fin neg m e =>
    if m = 0 then .fin neg 0 0
    else if neg then .nan false
    else
      let k : Nat := if e % 2 = 0 then 80 else 81
      let n := m * 2 ^ k
      let r := isqrt n
      .fin false (2 * r + (if r * r = n then 0 else 1)) ((e - k) / 2 - 1)

/-- a and b by value; a NaN compares as unordered. -/
def cmpV : Val → Val → Option Ordering
  | .nan _, _ => none
  | _, .nan _ => none
  | .inf a, .inf b => some (if a = b then .eq else if a then .lt else .gt)
  | .inf a, .fin _ _ _ => some (if a then .lt else .gt)
  | .fin _ _ _, .inf b => some (if b then .gt else .lt)
  | .fin na ma ea, .fin nb mb eb =>
    let low := min ea eb
    some (compare (scaled na ma ea low) (scaled nb mb eb low))

/-- The sign of a value. -/
def isNeg : Val → Bool
  | .nan _ => false
  | .inf n => n
  | .fin n _ _ => n

/-- v is a NaN. -/
def isNaN : Val → Bool
  | .nan _ => true
  | _ => false

/-- v is a signalling NaN. -/
def isSNaN : Val → Bool
  | .nan s => s
  | _ => false

/-- The larger value; +0 above −0; a NaN operand gives NaN (R135). -/
def maxV (a b : Val) : Val :=
  match cmpV a b with
  | none => .nan false
  | some .lt => b
  | some .gt => a
  | some .eq => if isNeg a then b else a

/-- The smaller value (R135). -/
def minV (a b : Val) : Val :=
  match cmpV a b with
  | none => .nan false
  | some .lt => a
  | some .gt => b
  | some .eq => if isNeg a then a else b

/-! ## Conversions (R131) -/

/-- A value to an integer of a range: the integer and the flags. -/
def toIntV (rm : RMode) (range : Int × Int) : Val → Int × BitVec 5
  | .nan _ => (0, flInvalid)
  | .inf neg => (if neg then range.1 else range.2, flSaturate)
  | .fin neg m e =>
    let r := roundTo rm neg m e 0
    let i : Int := if neg then -(r.1 : Int) else r.1
    if i < range.1 then (range.1, flSaturate)
    else if range.2 < i then (range.2, flSaturate)
    else (i, if r.2 then 0 else flInexact)

/-- An exact integer into a range (R191, R193). -/
def clampInt (range : Int × Int) (i : Int) : Int × BitVec 5 :=
  if i < range.1 then (range.1, flSaturate) else if range.2 < i then (range.2, flSaturate) else (i, 0)

/-- The value of an element of any numeric format. -/
def elemVal (t : Tag) (x : Nat) : Val :=
  match fmtOf t with
  | some f => valOf f x
  | none => valOfInt (intOf t x)

/-- An element of format `src` as one of format `dst` (R131, R193). -/
def convertElem (src dst : Tag) (rm : RMode) (nv : Bool) (x : Nat) : Res :=
  if src = dst ∧ fmtOf src = none then ⟨x, 0, false⟩
  else
    match fmtOf dst with
    | some f =>
      if src = dst ∧ !isNaN (valOf f x) then ⟨x, 0, false⟩ else roundVal f rm nv (elemVal src x)
    | none =>
      let r := toIntV rm (intRange dst) (elemVal src x)
      ⟨intBits (8 * widthOf dst) r.1, r.2, false⟩

/-! ## Special functions (R140, R141; log 19) -/

/-- Fraction bits of the fixed-point evaluation. -/
def spPrec : Nat := 160

/-- 2^(2^−1), 2^(2^−2), … in fixed point, applied to the fraction bits of the exponent, highest first. -/
def exp2Frac : List Bool → Nat → Nat → Nat
  | [], _, acc => acc
  | b :: r, c, acc =>
    let c := isqrt (c * 2 ^ spPrec)
    exp2Frac r c (if b then acc * c / 2 ^ spPrec else acc)

/-- 2^v, irrational results with a sticky last bit. -/
def exp2V : Val → Val
  | .nan _ => .nan false
  | .inf neg => if neg then .fin false 0 0 else .inf false
  | .fin neg m e =>
    if m = 0 then .fin false 1 0
    else if topExp m e < -27 then
      -- 2^v lies strictly between 1 − 2^−27 and 1 + 2^−27
      .fin false (if neg then 2 ^ 60 - 1 else 2 ^ 60 + 1) (-60)
    else if 8 ≤ topExp m e then
      -- |v| ≥ 256: beyond every format's range on either side
      if neg then .fin false 1 (-1000) else .fin false 1 1000
    else
      let low := min e 0
      let x := scaled neg m e low
      let d : Int := 2 ^ (-low).toNat
      let n := x / d
      let f := (x % d).toNat
      let k := (-low).toNat
      let bits := (List.range k).map (fun i => f.testBit (k - 1 - i))
      if f = 0 then .fin false 1 n
      else .fin false (2 * exp2Frac bits (2 * 2 ^ spPrec) (2 ^ spPrec) + 1) (n - spPrec - 1)

/-- Fraction bits of log2 y, 1 ≤ y < 2, by repeated squaring in fixed point. -/
def log2Frac : Nat → Nat → Nat → Nat
  | 0, _, acc => acc
  | k + 1, y, acc =>
    let y := y * y / 2 ^ 260
    if 2 * 2 ^ 260 ≤ y then log2Frac k (y / 2) (2 * acc + 1) else log2Frac k y (2 * acc)

/-- log2 v, irrational results with a sticky last bit. -/
def log2V : Val → Val
  | .nan _ => .nan false
  | .inf neg => if neg then .nan false else .inf false
  | .fin neg m e =>
    if m = 0 then .inf true
    else if neg then .nan false
    else
      let t := topExp m e
      if m = 2 ^ Nat.log2 m then (if t = 0 then .fin false 0 0 else valOfInt t)
      else
        let y := m * 2 ^ (260 - Nat.log2 m)
        let f : Int := log2Frac 110 y 0
        let v := (t * 2 ^ 110 + f) * 2 + 1
        .fin (v < 0) v.natAbs (-111)

/-- 1 ÷ √v to more than FP32 precision, the last bit sticky. -/
def rsqrtV : Val → Val
  | .nan _ => .nan false
  | .inf neg => if neg then .nan false else .fin false 0 0
  | .fin neg m e =>
    if m = 0 then .inf neg
    else if neg then .nan false
    else
      let m' := if e % 2 = 0 then m else 2 * m
      let e' := if e % 2 = 0 then e else e - 1
      let q := isqrt (2 ^ 240 / m')
      .fin false (2 * q + (if q * q * m' = 2 ^ 240 then 0 else 1)) (-(e' / 2) - 121)

/-- The eight special functions. -/
inductive SpecialFn where
  | exp2 | log2 | rcp | rsqrt | exp | log | tanh | sigm
  deriving DecidableEq, Repr

/-- One FP32 step: its value and its flags. -/
def step32 (v : Val) : Val × BitVec 5 := let r := rne fF32 v; (valOf fF32 r.bits, r.flags)

/-- The FP32 constants of R141. -/
def cL : Val := valOf fF32 0x3FB8AA3B
/-- 2 log2 e. -/
def cL2 : Val := valOf fF32 0x4038AA3B
/-- ln 2. -/
def cN : Val := valOf fF32 0x3F317218
/-- 1. -/
def one : Val := .fin false 1 0

/-- The FP32 result of a special function and the flags of its steps (R140, R141). -/
def specialF32 (fn : SpecialFn) (x : Val) : Res :=
  let join (r : Res) (fl : BitVec 5) : Res := { r with flags := r.flags ||| fl }
  match fn with
  | .exp2 => rne fF32 (exp2V x)
  | .log2 => rne fF32 (log2V x)
  | .rcp => rne fF32 (divV one x)
  | .rsqrt => match x with
    | .fin _ 0 _ => rne fF32 (.inf (isNeg x))
    | _ => rne fF32 (rsqrtV x)
  | .exp =>
    let a := step32 (mulV x cL)
    join (rne fF32 (exp2V a.1)) a.2
  | .log =>
    let a := step32 (log2V x)
    join (rne fF32 (mulV a.1 cN)) a.2
  | .tanh =>
    let u := step32 (mulV (absV x) cL2)
    let e := step32 (exp2V (negV u.1))
    let n := step32 (addV .rne one (negV e.1))
    let d := step32 (addV .rne one e.1)
    let y := rne fF32 (divV n.1 d.1)
    let fl := u.2 ||| e.2 ||| n.2 ||| d.2
    if y.nan then join y fl
    else join { y with bits := if isNeg x then y.bits % 2 ^ 31 + 2 ^ 31 else y.bits } fl
  | .sigm =>
    let u := step32 (mulV x cL)
    let e := step32 (exp2V (negV u.1))
    let d := step32 (addV .rne one e.1)
    join (rne fF32 (divV one d.1)) (u.2 ||| e.2 ||| d.2)

/-- A special function in a format: operands widen exactly, the FP32 result is rounded once more (R141). -/
def special (fn : SpecialFn) (f : Fmt) (x : Nat) : Res :=
  let r := specialF32 fn (valOf f x)
  if f = fF32 then r
  else
    let q := rne f (valOf fF32 r.bits)
    { q with flags := q.flags ||| r.flags }

/-! ## Elements of an image (R124, R177) -/

/-- The elements of width w bytes of an image. -/
def elems (w : Nat) (x : Image) : List Nat :=
  (List.range (4096 / w)).map (fun i => (x.toNat >>> (8 * w * i)) % 2 ^ (8 * w))

/-- The image of a list of elements of width w bytes. -/
def ofElems (w : Nat) (xs : List Nat) : Image :=
  BitVec.ofNat 32768 (xs.foldr (fun x acc => acc * 2 ^ (8 * w) + x % 2 ^ (8 * w)) 0)

/-- The bytes of an image. -/
def imageBytes (x : Image) : List Byte := (elems 1 x).map (BitVec.ofNat 8)

/-- The image of bytes. -/
def ofBytes (bs : List Byte) : Image := ofElems 1 (bs.map (·.toNat))

/-- The fixed pairwise tree of R136: adjacent elements combined, an odd last one carried; one level. -/
def treeLevel {α : Type} (f : α → α → α) : List α → List α
  | a :: b :: r => f a b :: treeLevel f r
  | l => l

/-- The tree of R136, given enough levels. -/
def tree {α : Type} (f : α → α → α) : Nat → List α → List α
  | 0, l => l
  | k + 1, l => tree f k (treeLevel f l)

end Sys2Proof.Machine
end

