-- ==== Sys2Proof/Machine/Spaces.lean ====
section
/-! DEFINITION. The spaces: windows (R145–R148), handles (R238, R240, R284, R285), pins (R105, R106, R150), poison
(R310), watchpoints (R323), and flits on links (R264, R265). -/

namespace Sys2Proof.Machine

/-! ## Windows (R145, R147) -/

/-- The size of SP. -/
def spSize : Nat := 2 ^ 21
/-- The size of LOFT. -/
def loftSize : Nat := 2 ^ 23
/-- The size of the HBM window. -/
def hbmSize : Nat := 2 ^ 48

/-- The range of n bytes at a lies inside a window of size z. -/
def inWindow (z a n : Nat) : Bool := decide (a + n ≤ z)

/-- Space-bound (R147). -/
def boundChk (space : Space) (z a n : Nat) : Check := chk (!inWindow z a n) 0x10 (addrDetail space a)

/-- Misaligned access. -/
def alignChk (space : Space) (a n : Nat) : Check := chk (a % n != 0) 0x11 (addrDetail space a)

/-- The member a PEER address names and the address on it (R145). -/
def peerMember (a : Nat) : Nat := a / 2 ^ 56 % 256
/-- Bits 55:0 of a PEER address. -/
def peerOffset (a : Nat) : Nat := a % 2 ^ 56

/-- The member of a PEER address is another member of the itinerary, and the range lies in the target's window
(R148). -/
def State.peerChk (s : State) (z a n : Nat) : Check :=
  let m := peerMember a
  chk (m == s.me.member || decide ((s.runOf s.id).members.length ≤ m) || !inWindow z (peerOffset a) n) 0x10
    (addrDetail .peer a)

/-- The core with the same number on a member of the itinerary (log 32). -/
def State.peerCore (s : State) (a : Nat) : CoreId :=
  let m := ((s.runOf s.id).members[peerMember a]?).getD (0, 0)
  ⟨m.1, m.2, s.id.core⟩

/-- The PEER address of an offset on the device of a core (R145). -/
def State.peerAddr (s : State) (w : WordRef) (x : CoreId) (off : Nat) : Nat := memberNo (s.run w.run) x.dev * 2 ^ 56 + off

/-- The lines of n bytes at a. -/
def spaceUnit : Space → Nat
  | .sp => 0
  | .loft => 1
  | _ => 6

/-! ## Handles -/

/-- The format code of a handle. -/
def hFmt (h : BitVec 256) : Nat := field h 35 5
/-- The base address of a handle. -/
def hBase (h : BitVec 256) : Nat := field h 208 42 * 64
/-- Dimension i of a tensor handle. -/
def hDim (h : BitVec 256) (i : Nat) : Nat := field h (160 - 32 * i) 32
/-- The number of dimensions. -/
def hNd (h : BitVec 256) : Nat := field h 33 2 + 1
/-- The tensor id. -/
def hTid (h : BitVec 256) : Nat := field h 40 24
/-- The chain depth limit. -/
def hDepth (h : BitVec 256) : Nat := field h 27 6
/-- The address of the log area. -/
def hLog (h : BitVec 256) : Nat := field h 0 27 * 2 ^ 21
/-- The size of the log area in units of 2 MiB. -/
def hLogsz (h : BitVec 256) : Nat := field h 192 16
/-- No command may change the chain. -/
def hFrozen (h : BitVec 256) : Bool := h.getLsbD 255
/-- The handle describes a sketch (R284). -/
def hIsSketch (h : BitVec 256) : Bool := hFmt h == 0x10
/-- The tag of a handle's format. -/
def hTag (h : BitVec 256) : Tag := (tagOf (BitVec.ofNat 5 (hFmt h))).getD .none
/-- The sketch id. -/
def hSkid (h : BitVec 256) : Nat := field h 160 32
/-- The scale exponent of a sketch. -/
def hScale (h : BitVec 256) : Int := signed 8 (field h 152 8)
/-- k of a sketch. -/
def hK (h : BitVec 256) : Nat := field h 147 5
/-- d of a sketch. -/
def hD (h : BitVec 256) : Nat := field h 144 3
/-- The number of elements of a tensor. -/
def hElems (h : BitVec 256) : Nat := hDim h 0 * hDim h 1 * hDim h 2 * hDim h 3
/-- The extent of a handle in bytes (R238, R284). -/
def hExtent (h : BitVec 256) : Nat := if hIsSketch h then 4 * hD h * 2 ^ hK h else hElems h * widthOf (hTag h)

/-- The fields of a tensor handle pass R240, but for the header. -/
def tensorFieldsOk (h : BitVec 256) : Bool :=
  let w := widthOf (hTag h)
  let e := hElems h * w
  w != 0 && (List.range 4).all (fun i => 1 ≤ hDim h i && (i < hNd h || hDim h i == 1)) && e % 64 == 0 &&
    hBase h + e ≤ hbmSize && 1 ≤ hDepth h && hLog h != 0 && ceilDiv (4096 + 4 * e) (2 ^ 21) ≤ hLogsz h &&
    field h 250 5 == 0

/-- The fields of a sketch handle pass R285. -/
def sketchFieldsOk (h : BitVec 256) : Bool :=
  (hD h == 3 || hD h == 5 || hD h == 7) && 4 ≤ hK h && hK h ≤ 30 && field h 250 6 == 0 && field h 192 16 == 0 &&
    field h 40 104 == 0 && field h 0 35 == 0 && hBase h + hExtent h ≤ hbmSize

/-- The ranges of pages that a handle pins, as (address, bytes, tensor pages): its extent, and a tensor's log area. -/
def handleRanges (h : BitVec 256) : List (Nat × Nat × Bool) :=
  if hIsSketch h then [(hBase h, hExtent h, false)]
  else [(hBase h, hExtent h, true), (hLog h, hLogsz h * 2 ^ 21, false)]

/-- h[i] is bound. -/
def Core.isBound (c : Core) (i : Nat) : Bool := c.bound.getLsbD i

/-- The DETAIL of a handle fault of a word that makes no access of its own: the base address that the handle gives (log
100). -/
def handleDetail (h : BitVec 256) : BitVec 256 := addrDetail .hbm (hBase h)

/-- A handle that an access of an AX word to an address of a space names is bound (R149; log 100). -/
def State.boundHandle (s : State) (i : Nat) (space : Space) (a : Nat) : Check :=
  chk (!s.me.isBound i) 0x14 (addrDetail space a)

/-- The pages of a context under these ranges, changed. -/
def pinPages (rs : List (Nat × Nat × Bool)) (f : Page → Page) (ps : List Page) : List Page :=
  rs.foldl (fun ps r => ps.map (fun p => if p.va < r.1 + r.2.1 && r.1 < p.va + p.size then f p else p)) ps

/-- Every page of a handle pinned once more (R105). -/
def State.pin (s : State) (h : BitVec 256) : State :=
  s.modCtx s.id.dev (s.ctxNo s.id) (fun x =>
    { x with pages := pinPages (handleRanges h) (fun p => { p with inFlight := p.inFlight + 1 }) x.pages })

/-- The pins of a handle released: now, or when the last command that captured it retires (R106). A later binding of the
register is captured by none of those commands. -/
def State.unpin (s : State) (id : CoreId) (i : Nat) : State :=
  let c := s.coreAt id
  let last := (c.captures.filter (fun x => x.1 == i)).foldl (fun m x => max m x.2) 0
  let drop (p : Page) : Page :=
    { p with inFlight := p.inFlight - 1, lapsing := if s.now < last then last :: p.lapsing else p.lapsing }
  (s.modCtx id.dev (s.ctxNo id) (fun x => { x with pages := pinPages (handleRanges (c.rh i)) drop x.pages })).modCore id
    (fun c => { c with captures := c.captures.filter (fun x => x.1 != i) })

/-- A command that captured handle i retires at a count (R106). -/
def State.capture (s : State) (i till : Nat) : State :=
  s.modMe (fun c => { c with captures := (i, till) :: c.captures.filter (fun x => s.now < x.2) })

/-- The releases still to come of a context's pages on a device, changed. -/
def State.lapsingOf (s : State) (d ctx : Nat) (f : List Nat → List Nat) : State :=
  s.modCtx d ctx (fun x => { x with pages := x.pages.map (fun p => { p with lapsing := f p.lapsing }) })

/-- The in-flight count of a page (R105, R106). -/
def Page.pins (p : Page) (now : Nat) : Nat := p.inFlight + (p.lapsing.filter (fun t => now < t)).length

/-! ## Bytes, poison, watchpoints -/

/-- Bytes of a space as a core of a context reaches them. -/
def State.readSpace (s : State) (id : CoreId) (ctx : Nat) (space : Space) (a n : Nat) : List Byte :=
  match space with
  | .sp => readBytes (s.coreAt id).sp a n
  | .loft => readBytes (s.coreAt id).loft a n
  | _ => s.readHbm id.dev ctx a n

/-- The poisoned lines among those that n bytes at a cover. -/
def State.poisonLines (s : State) (id : CoreId) (ctx : Nat) (space : Space) (a n : Nat) : List Nat :=
  match space with
  | .sp => (linesOf a n).filter (s.coreAt id).spPoison.contains
  | .loft => (linesOf a n).filter (s.coreAt id).loftPoison.contains
  | _ => (linesOf a n).filter (fun l => (s.dev id.dev).hbmPoison.contains (s.phys id.dev ctx (64 * l) / 64))

/-- A read that consumes poisoned lines (R310). -/
def State.poisonChk (s : State) (id : CoreId) (ctx : Nat) (space : Space) (a n : Nat) : Check :=
  match s.poisonLines id ctx space a n with
  | [] => none
  | l :: _ => some (0x42, unitDetail (spaceUnit space) (64 * l))

/-- Watchpoint w covers a byte of an access (R323, log 24). -/
def Watch.hits (w : Watch) (space : Space) (a n : Nat) (write : Bool) : Bool :=
  let base := w.base.toNat / 64 * 64
  field w.ctl 0 3 == spaceNo space && w.ctl.getLsbD (if write then 4 else 3) &&
    decide (a < base + 64 * field w.ctl 8 24) && decide (base < a + n)

/-- An access of a word of a core that touches a range the core watches (R323). -/
def State.watchOf (s : State) (c : Core) (w : WordRef) (space : Space) (a n : Nat) (write : Bool) : Check :=
  chk ((s.ctx w.id.dev (s.ctxW w)).brken.getLsbD 1 && decide (0 < n) &&
      c.watches.toList.any (·.hits space a n write)) 0x5C (addrDetail space a)

/-- An access of a core's engine, or of its NMU command, that touches a watched range (R323). -/
def State.watchChk (s : State) (w : WordRef) (space : Space) (a n : Nat) (write : Bool) : Check :=
  s.watchOf (s.coreAt w.id) w space a n write

/-- An access performs where the word's core still runs its itinerary and no check fails; else it raises (R174). -/
def State.perform (s : State) (w : WordRef) (checks : List Check) (f : State → State) : State :=
  if s.mine w then
    match firstFault checks with
    | none => f s
    | some (c, d) => s.raise w.eng w true c d
  else s

/-- Bytes written into SP or LOFT of a core; a whole line takes the poison of the data (R225, R310). -/
def Core.writeSpace (c : Core) (space : Space) (a : Nat) (bs : List Byte) (poison : List Nat) : Core :=
  match space with
  | .loft => { c with loft := writeBytes c.loft a bs, loftPoison := poisonAfter c.loftPoison a bs.length poison }
  | _ => { c with sp := writeBytes c.sp a bs, spPoison := poisonAfter c.spPoison a bs.length poison }

/-- A timed write of a word is scheduled for a count: it is checked there before words issue, and then takes its place
in the order of R226. -/
def State.writeAt (s : State) (t : Nat) (w : WordRef) (space : Space) (a : Nat) (bs : List Byte) (poison : List Nat) :
    State :=
  s.sched t phRead (.accessPerform (.store w space a bs poison))

/-- Where a word's write stands among the writes of its tick (R226). -/
def writeKey (w : WordRef) : Nat := if w.eng == .sq then 0 else 1

/-! ## Flits (R259, R264, R265) -/

/-- A link end of a device. -/
def State.link (s : State) (d l : Nat) : Link := vget Link.reset (s.dev d).links l

/-- A link end changed. -/
def State.modLink (s : State) (d l : Nat) (f : Link → Link) : State :=
  s.modDev d (fun x => { x with links := vset x.links l (f (vget Link.reset x.links l)) })

/-- The hop latency of a link (R264). -/
def hopLatency (l : Link) : Nat := if l.classB then 1600 else 640

/-- What a flit brings happens at its arrival (R266, R270, R271). -/
def State.deliver (s : State) (w : WordRef) : Cargo → State
  | .send dests addr bytes poison tracker =>
    dests.foldl (fun s c => s.schedAt s.now phWrite 2 w.id.dev w.id.core (.flitLanding w c addr bytes poison tracker)) s
  | .coll dst index job f bytes =>
    if (s.coreAt dst).run = some w.run then
      s.modCore dst (fun c => { c with colls := ⟨{ job with index := index }, f, bytes⟩ :: c.colls })
    else s
  | .collResult dests t bytes flags =>
    dests.foldl (fun s c => s.schedAt t phWrite 2 w.id.dev w.id.core (.collResultWrite c.1 c.1.id c.2 bytes flags)) s
  | .peerRequest p => s.sched (s.now + 300) phRead (.peerRequest w p)
  | .peerResponse lands result =>
    let s := lands.foldl (fun s x => s.sched (s.now + x.1) phRead (.accessPerform x.2)) s
    match result with
    | none => s
    | some (.sReg k, v) => s.sched s.now phResult (.leasedResult w (.sReg k v))
    | some (.pReg i, v) => s.sched s.now phResult (.leasedResult w (.pReg i (v != 0)))

/-- A flit of a word leaves a device for another at a count: it enters its route there, or crosses the chip in 48
ticks (R259, R264). Entries of one count are served in the order of R265. -/
def State.sendFlit (s : State) (w : WordRef) (t src dst : Nat) (cargo : Cargo) : State :=
  let arrive := s.schedAt (t + s.latency src dst) phRead 0 0 0 (.flitArrival dst 18 (.enter w src [] cargo))
  if src = dst then arrive
  else match s.route? src dst with
    | some r => match r.hops with
      | (d, l) :: rest => s.schedAt t phLand src w.id.core w.issue (.flitArrival d l (.enter w src ((d, l) :: rest) cargo))
      | [] => arrive
    | none => arrive

/-- The DETAIL of a link-slot conflict (R307). -/
def slotDetail (s : State) (w : WordRef) : BitVec 256 :=
  BitVec.ofNat 256 ((s.coreAt w.id).member + w.id.core * 2 ^ 8 + w.issue * 2 ^ 32)

/-- A flit that a device sent enters a link (R264, R265). On a link that is down it is lost (R273). A conflict is raised at the
device where the flit would enter. -/
def State.flitEnters (s : State) (w : WordRef) (src dev link : Nat) (rest : List (Nat × Nat)) (cargo : Cargo) : State :=
  let x := s.link dev link
  if !x.up then s
  else if (x.lastEntry.map (fun t => decide (s.now < t + 4))).getD false then
    s.raiseOn dev .ax w true 0x41 (slotDetail s w)
  else
    (s.modLink dev link (fun x => { x with lastEntry := some s.now })).schedAt (s.now + hopLatency x) phRead 0 0 0
      (.flitArrival x.pdev.toNat x.plink.toNat (.arrive w src rest cargo))

/-- A flit has come to a device with the hops that are left of its route: it is relayed to the next one after 64 ticks, be it by
the end it came to (R259), or has arrived (R264). -/
def State.flitGoesOn (s : State) (w : WordRef) (src : Nat) (hops : List (Nat × Nat)) (cargo : Cargo) : State :=
  match hops with
  | [] => s.deliver w cargo
  | (d, l) :: _ => s.schedAt (s.now + 64) phLand src w.id.core w.issue (.flitArrival d l (.relay w src hops cargo))

end Sys2Proof.Machine
end

