-- ==== Sys2Proof/Machine/Memory.lean ====
section
/-! DEFINITION. Scalar access to memory (R101–R103), tensor handles in SQ (R104–R107), and the perform of scalar
accesses and of timed writes (R225, R226). -/

namespace Sys2Proof.Machine

/-! ## Checks of a scalar access (R101, R147, R148) -/

/-- Every page of an HBM range is mapped in a context of a device. -/
def State.pageChk (s : State) (d c : Nat) (space : Space) (a va n : Nat) : Check :=
  chk ((s.pagesOf d c va n).isNone) 0x12 (addrDetail space a)

/-- No page of an HBM range is executable (R101, R148, R175; log 101). -/
def State.protectChk (s : State) (d c : Nat) (space : Space) (a va n : Nat) : Check :=
  chk (((s.pagesOf d c va n).getD []).any (·.exec.isSome)) 0x13 (addrDetail space a)

/-- The checks of a scalar access that are made at issue. -/
def State.scalarChks (s : State) (space : Space) (ea size : Nat) : List Check :=
  alignChk space ea size ::
    match space with
    | .sp => [boundChk .sp spSize ea size]
    | .loft => [boundChk .loft loftSize ea size]
    | .hbm => [boundChk .hbm hbmSize ea size, s.pageChk s.id.dev (s.ctxNo s.id) .hbm ea ea size,
        s.protectChk s.id.dev (s.ctxNo s.id) .hbm ea ea size]
    | .peer => [s.peerChk hbmSize ea size]
    | .host => [boundChk .host (s.ctxOf s.id).hostWin.toNat ea size]
    | _ => []

/-- A and λ of a timed scalar load (R102). -/
def loadTimes : Space → Nat × Nat
  | .sp => (6, 12)
  | .loft => (12, 24)
  | _ => (300, 760)

/-- The result of a load for its destination (R101). -/
def loadResult (dst : LoadDst) (v : Nat) : Result :=
  match dst with
  | .sReg k => .sReg k (BitVec.ofNat 64 v)
  | .pReg i => .pReg i (v != 0)

/-! ## Loads and stores -/

/-- A timed load of a space: its read performs at t + A and its result at ρ − 1 (R88, R102). -/
def State.loads (s : State) (space : Space) (ea size : Nat) (dst : LoadDst) (lease : State → Nat → State) : State :=
  let t := loadTimes space
  (((lease s t.2).sched (s.now + t.1) phRead (.accessPerform (.load s.cur.word space ea size dst))).modMe
    (fun c => c.accessAt (s.now + t.1))).completesAt t.2

/-- lds.x for SP, LOFT and HBM. -/
def lds (space : Space) (d a : BitVec 6) (z : BitVec 2) (o : BitVec 7) (s : State) : Out :=
  let ea := s.me.ea a z o
  s.word (s.sFree a.toNat :: s.sFree d.toNat :: s.scalarChks space ea (sizeOf z))
    (fun s => s.loads space ea (sizeOf z) (.sReg (sSlot s.me d.toNat)) (fun s lam => s.leaseS d.toNat lam))

/-- ldp.x. -/
def ldp (space : Space) (d : BitVec 4) (a : BitVec 6) (z : BitVec 2) (o : BitVec 7) (s : State) : Out :=
  let ea := s.me.ea a z o
  s.word (s.sFree a.toNat :: s.pFree d.toNat :: s.scalarChks space ea (sizeOf z))
    (fun s => s.loads space ea (sizeOf z) (.pReg d.toNat) (fun s lam => s.leaseP d.toNat lam))

/-- lds.sp sd, [sa + off], size. -/
def execLdsSp (_g : BitVec 4) (d a : BitVec 6) (z : BitVec 2) (o : BitVec 7) (s : State) : Out := lds .sp d a z o s
/-- lds.loft sd, [sa + off], size. -/
def execLdsLoft (_g : BitVec 4) (d a : BitVec 6) (z : BitVec 2) (o : BitVec 7) (s : State) : Out := lds .loft d a z o s
/-- lds.hbm sd, [sa + off], size. -/
def execLdsHbm (_g : BitVec 4) (d a : BitVec 6) (z : BitVec 2) (o : BitVec 7) (s : State) : Out := lds .hbm d a z o s
/-- ldp.sp pd, [sa + off], size. -/
def execLdpSp (_g d : BitVec 4) (a : BitVec 6) (z : BitVec 2) (o : BitVec 7) (s : State) : Out := ldp .sp d a z o s
/-- ldp.hbm pd, [sa + off], size. -/
def execLdpHbm (_g d : BitVec 4) (a : BitVec 6) (z : BitVec 2) (o : BitVec 7) (s : State) : Out := ldp .hbm d a z o s

/-- lds.peer sd, [sa + off], size: a request flit enters at t, the target reads at t + 300 + H, and the result performs
at ρ − 1 = t + 759 + 2H (R102, R148, R271). -/
def execLdsPeer (_g : BitVec 4) (d a : BitVec 6) (z : BitVec 2) (o : BitVec 7) (s : State) : Out :=
  let ea := s.me.ea a z o
  s.word (s.sFree a.toNat :: s.sFree d.toNat :: s.scalarChks .peer ea (sizeOf z))
    (fun s =>
      let target := s.peerCore ea
      let h := s.latency s.id.dev target.dev
      let slot := sSlot s.me d.toNat
      (((s.leaseS d.toNat (760 + 2 * h)).sendFlit s.cur.word s.now s.id.dev target.dev
        (.peerRequest (.load target (peerOffset ea) (sizeOf z) (.sReg slot) h))).modMe
          (fun c => c.accessAt (s.now + 300 + h))).completesAt (760 + 2 * h))

/-- lds.host sd, [sa + off], size: SQ waits for the host's completion (R100, R102). -/
def execLdsHost (_g : BitVec 4) (d a : BitVec 6) (z : BitVec 2) (o : BitVec 7) (s : State) : Out :=
  let ea := s.me.ea a z o
  s.waypointWord (s.sFree a.toNat :: s.sFree d.toNat :: s.scalarChks .host ea (sizeOf z))
    (fun s => s.modMe (fun c => { c with
      wait := .host s.cur.word ea (sizeOf z) (some (.sReg (sSlot c d.toNat))) 0 s.now }))

/-- wrs.sp sd, [sa + off], size: the write performs at t + 6 (R102). -/
def execWrsSp (_g : BitVec 4) (d a : BitVec 6) (z : BitVec 2) (o : BitVec 7) (s : State) : Out :=
  let ea := s.me.ea a z o
  s.word (s.sFree a.toNat :: s.sFree d.toNat :: s.scalarChks .sp ea (sizeOf z))
    (fun s => (s.writeAt (s.now + 6) s.cur.word .sp ea (leBytes (sizeOf z) (s.me.rs d.toNat).toNat) []).modMe
      (fun c => c.accessAt (s.now + 6)))

/-- wrs.host sd, [sa + off], size: SQ waits for the host's completion (R100, R102). -/
def execWrsHost (_g : BitVec 4) (d a : BitVec 6) (z : BitVec 2) (o : BitVec 7) (s : State) : Out :=
  let ea := s.me.ea a z o
  s.waypointWord (s.sFree a.toNat :: s.sFree d.toNat :: s.scalarChks .host ea (sizeOf z))
    (fun s => s.modMe (fun c => { c with wait := .host s.cur.word ea (sizeOf z) none (c.rs d.toNat) s.now }))

/-- pfh [sa + off]: no architectural effect, and no fault, a lease of sa included (R103; log 47). -/
def execPfh (_g : BitVec 4) (_a : BitVec 6) (_o : BitVec 7) (s : State) : Out := s.word [] id

/-! ## Performs (R225, R226) -/

/-- The read of a scalar load performs: its result stands in flight until ρ − 1 (R102). -/
def performLoad (w : WordRef) (space : Space) (ea size : Nat) (dst : LoadDst) (s : State) : State :=
  s.perform w [s.poisonChk w.id (s.ctxW w) space ea size, s.watchChk w space ea size false]
    (fun s =>
      let t := loadTimes space
      s.sched (s.now + (t.2 - t.1 - 1)) phResult
        (.leasedResult w (loadResult dst (leNat (s.readSpace w.id (s.ctxW w) space ea size)))))

/-- A timed write at its tick: checked, then put in the order of R226. -/
def performStore (w : WordRef) (space : Space) (a : Nat) (bs : List Byte) (poison : List Nat) (s : State) : State :=
  s.perform w [s.watchChk w space a bs.length true]
    (fun s => s.schedAt s.now phWrite (writeKey w) 0 0 (.accessPerform (.copyWrite w space a bs poison)))

/-- A timed write performs. -/
def performWrite (w : WordRef) (space : Space) (a : Nat) (bs : List Byte) (poison : List Nat) (s : State) : State :=
  s.perform w [] (fun s => s.modCore w.id (fun c => c.writeSpace space a bs poison))

/-! ## Handles in SQ (R104–R107) -/

/-- The image that hbind reads: the h register itself for sa = s0, else 32 bytes of HBM (R105). DESIGN CHOICE: image and log
header are read at the count of its issue (log 125), and so as the count before left them (R225). -/
def State.bindImage (s : State) (h : BitVec 5) (a : BitVec 6) : BitVec 256 :=
  if a = 0 then s.me.rh h.toNat
  else BitVec.ofNat 256 (leNat ((s.asLeft s.id.dev).readHbm s.id.dev (s.ctxNo s.id) (s.me.rs a.toNat).toNat 32))

/-- The checks of the read of the image (R105). -/
def State.imageChks (s : State) (a : BitVec 6) : List Check :=
  if a = 0 then []
  else
    let ea := (s.me.rs a.toNat).toNat
    s.sFree a.toNat :: alignChk .hbm ea 32 :: boundChk .hbm hbmSize ea 32 ::
      [s.pageChk s.id.dev (s.ctxNo s.id) .hbm ea ea 32, s.protectChk s.id.dev (s.ctxNo s.id) .hbm ea ea 32,
        (s.asLeft s.id.dev).poisonChk s.id (s.ctxNo s.id) .hbm ea 32,
        s.watchChk s.cur.word .hbm ea 32 false]

/-- The bytes of a log header that hbind reads: the TID (R240). -/
def headerBytes : Nat := 3

/-- The header of a tensor's log area names the tensor (R240). -/
def State.headerOk (s : State) (x : BitVec 256) : Bool :=
  leNat ((s.asLeft s.id.dev).readHbm s.id.dev (s.ctxNo s.id) (hLog x) headerBytes) == hTid x

/-- The checks of a handle that hbind makes: its fields (R240, R285), the translation of its pages, and their kinds
(R105, R151; log 33). -/
def State.bindChks (s : State) (x : BitVec 256) : List Check :=
  let d := s.id.dev
  let c := s.ctxNo s.id
  let ranges := handleRanges x
  let pages := ranges.map (fun r => (r, s.pagesOf d c r.1 r.2.1))
  let mapped := pages.all (fun p => p.2.isSome)
  let fields := if hIsSketch x then sketchFieldsOk x else tensorFieldsOk x
  [chk (!fields) 0x14 (handleDetail x),
   ((pages.find? (fun p => p.2.isNone)).map (fun p => (0x12, addrDetail .hbm p.1.1))),
   chk (pages.any (fun p => (p.2.getD []).any (·.exec.isSome))) 0x13 (addrDetail .hbm (hBase x)),
   chk (pages.any (fun p => (p.2.getD []).any (fun q => q.tensor != p.1.2.2))) 0x14 (handleDetail x),
   chk (mapped && !hIsSketch x && !s.headerOk x) 0x14 (handleDetail x),
   if mapped && !hIsSketch x then (s.asLeft d).poisonChk s.id c .hbm (hLog x) headerBytes else none,
   if mapped && !hIsSketch x then s.watchChk s.cur.word .hbm (hLog x) headerBytes false else none]

/-- hbind h, sa. -/
def execHbind (_g : BitVec 4) (h : BitVec 5) (a : BitVec 6) (s : State) : Out :=
  let image := s.imageChks a
  let x := s.bindImage h a
  s.waypointWord (chk (s.me.isBound h.toNat) 0x14 (handleDetail (s.me.rh h.toNat)) :: image ++
      (if (firstFault image).isNone then s.bindChks x else []))
    (fun s => (s.pin x).modMe (fun c =>
      { c with h := vset c.h h.toNat x, bound := setBits c.bound h.toNat 1 1 }))

/-- hunbind h. -/
def execHunbind (_g : BitVec 4) (h : BitVec 5) (s : State) : Out :=
  s.waypointWord [chk (!s.me.isBound h.toNat) 0x14 (handleDetail (s.me.rh h.toNat))]
    (fun s => (s.unpin s.id h.toNat).modMe (fun c => { c with bound := setBits c.bound h.toNat 1 0 }))

/-- hset h, sa, sb: the write performs behind the AX words of the tick (R104, R107). -/
def execHset (_g : BitVec 4) (h : BitVec 5) (a b : BitVec 6) (s : State) : Out :=
  let q := (s.me.rs a.toNat).toNat
  s.word [s.sFree a.toNat, s.sFree b.toNat,
      chk (s.me.isBound h.toNat || decide (3 < q)) 0x14 (handleDetail (s.me.rh h.toNat))]
    (fun s => s.sched s.now phResult (.leasedResult s.cur.word (.hReg h.toNat q (s.me.rs b.toNat))))

/-- hget sd, h, sb (R104). -/
def execHget (_g : BitVec 4) (h : BitVec 5) (d b : BitVec 6) (s : State) : Out :=
  let q := (s.me.rs b.toNat).toNat
  s.word [s.sFree b.toNat, s.sFree d.toNat, chk (decide (3 < q)) 0x14 (handleDetail (s.me.rh h.toNat))]
    (fun s => s.modMe (fun c => c.ws d.toNat (BitVec.ofNat 64 (field (c.rh h.toNat) (64 * q) 64))))

end Sys2Proof.Machine
end

