-- ==== Sys2Proof/Machine/Copies.lean ====
section
/-! DEFINITION. Copies (R161–R164), feeds and drains of the queues (R165–R169), reads of other members (R148, R271). -/

namespace Sys2Proof.Machine

/-! ## Ports (R163) -/

/-- HBM reads. -/
def portHR : Nat := 0
/-- PEER reads. -/
def portPR : Nat := 1
/-- SP reads. -/
def portSR : Nat := 2
/-- SP writes. -/
def portSW : Nat := 3
/-- LOFT reads. -/
def portLR : Nat := 4
/-- LOFT writes. -/
def portLW : Nat := 5

/-- n beats on a port from a count on, some ticks apart. -/
def beatsOn (port first step n : Nat) : List (Nat × Nat) := (List.range n).map (fun j => (port, first + step * j))

/-- A beat would fall on a port and tick that already holds one (R163). -/
def State.portChk (s : State) (beats : List (Nat × Nat)) : Check := chk (beats.any s.me.ports.contains) 0x15 0

/-- Beats reserved; those that have passed are dropped. -/
def State.reserve (s : State) (beats : List (Nat × Nat)) : State :=
  s.modMe (fun c => { c with ports := beats ++ c.ports.filter (fun x => s.now ≤ x.2) })

/-- The word with these checks and a port check. Where a check of a lower code fails, which is the fault of the word
(R78), there may be no beats to place. -/
def State.portWord (s : State) (checks : List Check) (beats : Unit → List (Nat × Nat)) (eff : State → State) : Out :=
  let lower := ((firstFault checks).map (fun x => decide (x.1 < 0x15))).getD false
  let all := if lower then checks else checks ++ [s.portChk (beats ())]
  s.word all (fun s => eff (s.reserve (beats ())))

/-! ## Copies (R161, R162) -/

/-- A copy word: spaces, bytes a beat, Ar, Aw, c, the ports of its reads and writes. -/
structure CopyForm where
  src : Space
  dst : Space
  beat : Nat
  ar : Nat
  aw : Nat
  step : Nat
  rport : Nat
  wport : Nat

/-- The window of a space that needs no handle. -/
def localSize : Space → Nat
  | .loft => loftSize
  | _ => spSize

/-- The checks of the source range of a copy or feed: of HBM against the extent of a bound handle, of PEER against the target's
window, whatever the handle (R145, R148). -/
def State.sourceChks (s : State) (space : Space) (h : Nat) (a n : Nat) : List Check :=
  let bound := s.me.isBound h
  match space with
  | .hbm => s.boundHandle h .hbm a :: (if bound then [boundChk .hbm (hExtent (s.me.rh h)) a n] else [])
  | .peer => [s.boundHandle h .peer a, s.peerChk hbmSize a n]
  | x => [boundChk x (localSize x) a n]

/-- The address a beat reads from, as its source space takes it. -/
def State.sourceBase (s : State) (space : Space) (h a : Nat) : Nat :=
  match space with
  | .hbm => hBase (s.me.rh h) + a
  | .peer => peerOffset a
  | _ => a

/-- Ar, Aw of a copy with the latency of its route (R162). -/
def CopyForm.times (k : CopyForm) (h : Nat) : Nat × Nat := if k.src = .peer then (k.ar + h, k.aw + 2 * h) else (k.ar, k.aw)

/-- The first read of a copy is scheduled: local reads follow one another, PEER reads each have a request flit. -/
def State.startCopy (s : State) (c : CopyJob) (ar beats : Nat) : State :=
  match c.target with
  | none => s.sched (s.now + ar) phRead (.accessPerform (.copyRead s.cur.word c 0))
  | some x => (List.range beats).foldl
      (fun s j => s.sendFlit s.cur.word (s.now + c.step * j) s.id.dev x.dev (.peerRequest (.copy c j))) s

/-- cp.x.y [ad], [aa], nc, h (R161–R163). -/
def copies (k : CopyForm) (d a : BitVec 5) (n : BitVec 4) (h : BitVec 5) (s : State) : Out :=
  let dst := (s.me.ra d.toNat).toNat
  let src := (s.me.ra a.toNat).toNat
  let len := (s.me.rn n.toNat).toNat
  let target := s.peerCore src
  let lat := s.latency s.id.dev target.dev
  let t := k.times lat
  let beats := ceilDiv len k.beat
  let done := s.now + t.2 + k.step * (beats - 1) + 1
  if len = 0 then s.word [] id
  else
    s.portWord ([alignChk k.dst dst 64, alignChk k.src src 64, chk (len % 64 != 0) 0x11 (addrDetail k.dst dst)] ++
        s.sourceChks k.src h.toNat src len ++ [boundChk k.dst (localSize k.dst) dst len])
      (fun _ => beatsOn k.rport (s.now + t.1) k.step beats ++ beatsOn k.wport (s.now + t.2) k.step beats)
      (fun s =>
        let job : CopyJob :=
          { src := k.src, dst := k.dst, sAddr := s.sourceBase k.src h.toNat src, dAddr := dst, len := len,
            beat := k.beat, step := k.step, lag := t.2 - t.1, handle := h.toNat,
            target := if k.src = .peer then some target else none, h := lat }
        let s := if k.src = .hbm ∨ k.src = .peer then s.capture h.toNat done else s
        (s.startCopy job t.1 beats).modMe (fun c => c.accessAt (done - 1)))

/-- cp.hbm.sp. -/
def execCpHbmSp (_g : BitVec 4) (d a : BitVec 5) (n : BitVec 4) (h : BitVec 5) (s : State) : Out :=
  copies ⟨.hbm, .sp, 1024, 300, 600, 17, portHR, portSW⟩ d a n h s
/-- cp.hbm.loft. -/
def execCpHbmLoft (_g : BitVec 4) (d a : BitVec 5) (n : BitVec 4) (h : BitVec 5) (s : State) : Out :=
  copies ⟨.hbm, .loft, 1024, 300, 606, 17, portHR, portLW⟩ d a n h s
/-- cp.sp.loft. -/
def execCpSpLoft (_g : BitVec 4) (d a : BitVec 5) (n : BitVec 4) (s : State) : Out :=
  copies ⟨.sp, .loft, 1024, 6, 12, 1, portSR, portLW⟩ d a n 0 s
/-- cp.sp.sp. -/
def execCpSpSp (_g : BitVec 4) (d a : BitVec 5) (n : BitVec 4) (s : State) : Out :=
  copies ⟨.sp, .sp, 1024, 6, 12, 1, portSR, portSW⟩ d a n 0 s
/-- cp.peer.sp. -/
def execCpPeerSp (_g : BitVec 4) (d a : BitVec 5) (n : BitVec 4) (h : BitVec 5) (s : State) : Out :=
  copies ⟨.peer, .sp, 256, 300, 600, 24, portPR, portSW⟩ d a n h s
/-- cp.loft.sp. -/
def execCpLoftSp (_g : BitVec 4) (d a : BitVec 5) (n : BitVec 4) (s : State) : Out :=
  copies ⟨.loft, .sp, 1024, 6, 12, 1, portLR, portSW⟩ d a n 0 s

/-- The poison of a moved range as lines of its destination (R310). -/
def movedPoison (src dst : Nat) (lines : List Nat) : List Nat := lines.map (fun l => l - src / 64 + dst / 64)

/-- Beat j of a copy reads; its write follows `lag` ticks later, and the next beat reads `step` ticks later (R161). -/
def performCopyRead (w : WordRef) (c : CopyJob) (j : Nat) (s : State) : State :=
  let a := c.sAddr + c.beat * j
  let n := min c.beat (c.len - c.beat * j)
  let dst := c.dAddr + c.beat * j
  s.perform w [s.watchChk w c.src a n false] (fun s =>
    let bytes := s.readSpace w.id (s.ctxW w) c.src a n
    let poison := movedPoison a dst (s.poisonLines w.id (s.ctxW w) c.src a n)
    let s := s.writeAt (s.now + c.lag) w c.dst dst bytes poison
    if c.beat * (j + 1) < c.len then s.sched (s.now + c.step) phRead (.accessPerform (.copyRead w c (j + 1))) else s)

/-! ## Queues (R165) -/

/-- An operand queue or a result queue. -/
def Core.queue (c : Core) (result : Bool) (i : Nat) : List QEnt := if result then vget [] c.o i else vget [] c.q i

/-- A queue set. -/
def Core.setQueue (c : Core) (result : Bool) (i : Nat) (x : List QEnt) : Core :=
  if result then { c with o := vset c.o i x } else { c with q := vset c.q i x }

/-- Word w issued before word v of its core: in an earlier leg, or at an earlier tick of the leg. -/
def issuedBefore (w v : WordRef) : Bool := decide (w.leg < v.leg) || (w.leg == v.leg && decide (w.issue < v.issue))

/-- e leaves before f: by ready tick, then by the issue of the words (R165). -/
def entryBefore (e f : QEnt) : Bool :=
  decide (e.ready < f.ready) || (e.ready == f.ready && issuedBefore e.word f.word)

/-- An entry in its place. DESIGN CHOICE: of two entries with one ready tick whose words issued in one tick the one that was
placed first leaves first, so that an mdrain's leaves before a VX word's (log 147). -/
def insertEntry (e : QEnt) : List QEnt → List QEnt
  | [] => [e]
  | f :: r => if entryBefore e f then e :: f :: r else f :: insertEntry e r

/-- An entry is on its way to a queue: it may be popped from its ready tick on, and whether the queue has room for it
is seen at that tick (R165). -/
def State.enqueue (s : State) (result : Bool) (q : Nat) (e : QEnt) : State :=
  (s.modCore e.word.id (fun c => c.setQueue result q (insertEntry e (c.queue result q)))).sched e.ready phLand
    (.queueEntryReady e.word result q e.ready)

/-- The oldest entry of a queue that is ready. -/
def Core.readyHead (c : Core) (now : Nat) (result : Bool) (q : Nat) : Option QEnt :=
  (c.queue result q).head?.filter (fun e => decide (e.ready ≤ now))

/-- A pop of a queue misses, or meets a poisoned entry (R165, R310). -/
def popChk (c : Core) (now : Nat) (result : Bool) (q : Nat) : Check :=
  match c.readyHead now result q with
  | none => some (0x07, 0)
  | some e => chk e.tile.poison 0x42 (unitDetail 3 q)

/-- The oldest entry of a queue is taken. -/
def Core.popped (c : Core) (result : Bool) (q : Nat) : Core := c.setQueue result q (c.queue result q).tail

/-- An entry is lost: its word has faulted, so the flags that it alone has set are clear, in a register as well that a csrr of
this count has written, and the registers it wrote beside the push are as they were (R79, R133, R203; log 129). -/
def Core.withdraw (c : Core) (e : QEnt) : Core :=
  let c := c.unreadFlags e.word
  let c := if e.word.eng = .mx then { c with flagsMx := c.flagsMx &&& ~~~e.flags }
    else { c with flagsVx := c.flagsVx &&& ~~~e.flags }
  { c with t := e.before.foldl (fun t x => vset t x.1 x.2) c.t }

/-- The ready tick of an entry arrives: behind 8 others it is lost, and its word raises queue miss (R165). -/
def execQueueEntryReady (w : WordRef) (result : Bool) (q ready : Nat) (s : State) : Out :=
  let c := s.coreAt w.id
  let here := (c.queue result q).filter (fun e => decide (e.ready ≤ ready))
  .next (if 8 < here.length then
      let lost := here.getLast?
      let s := s.modCore w.id (fun c => (lost.map c.withdraw).getD c |>.setQueue result q
        (here.dropLast ++ (c.queue result q).filter (fun e => decide (ready < e.ready))))
      let w := (lost.map (·.word)).getD w
      s.raise w.eng w true 0x07 0
    else s)

/-! ## Feeds (R166–R168) -/

/-- The element at index i of the transpose of a block of rows of `cols` elements, n elements in all (R167). -/
def transposeIdx (cols n i : Nat) : Nat :=
  let rows := n / cols
  i % rows * cols + i / rows

/-- The image of a source block in column order: its transpose (R167). -/
def columnOrder (w pitch : Nat) (x : Image) : Image :=
  let xs := (elems w x).toArray
  ofElems w ((List.range xs.size).map (fun i => xs.getD (transposeIdx (pitch / w) xs.size i) 0))

/-- The source block of an image in column order: the inverse (R169, log 37). -/
def rowOrder (w pitch : Nat) (x : Image) : Image :=
  let xs := (elems w x).toArray
  let rows := xs.size / (pitch / w)
  ofElems w ((List.range xs.size).map (fun i => xs.getD (transposeIdx rows xs.size i) 0))

/-- The pitch that an ord bit and a p field name (R166). -/
def pitchOf (o : Bool) (p : BitVec 3) : Option Nat := if o then some (64 * 2 ^ p.toNat) else none

/-- Column order fills whole lines: the pitch divides 64 × w (R167). -/
def pitchFits (pitch : Option Nat) (w : Nat) : Bool :=
  match pitch with
  | none => true
  | some p => w != 0 && 64 * w % p == 0

/-- A feed word: space, bytes a beat, ticks from issue to the first read, from beat to beat, from an entry's last read
to its ready tick, and its port. -/
structure FeedForm where
  src : Space
  beat : Nat
  ar : Nat
  step : Nat
  lag : Nat
  port : Nat

/-- qfd.x qi, [aa], nc (R166–R168). -/
def feeds (k : FeedForm) (q : BitVec 3) (a : BitVec 5) (n : BitVec 4) (h : Nat) (tag : Tag) (pitch : Option Nat)
    (s : State) : Out :=
  let src := (s.me.ra a.toNat).toNat
  let e := (s.me.rn n.toNat).toNat
  let target := s.peerCore src
  let peer := k.src == .peer
  let lat := if peer then s.latency s.id.dev target.dev else 0
  let beats := e * (4096 / k.beat)
  let last := s.now + k.ar + lat + k.step * (beats - 1)
  if e = 0 then s.word [] id
  else
    s.portWord (s.sourceChks k.src h src (4096 * e) ++ [chk (!pitchFits pitch (widthOf tag)) 0x22 0])
      (fun _ => beatsOn k.port (s.now + k.ar + lat) k.step beats)
      (fun s =>
        let job : FeedJob :=
          { q := q.toNat, src := k.src, addr := s.sourceBase k.src h src, entries := e, tag := tag, pitch := pitch,
            beat := k.beat, step := k.step, lag := k.lag, handle := h,
            target := if peer then some target else none, h := lat }
        let s := if k.src = .sp then s else s.capture h (last + 1)
        let s := s.modMe (fun c => c.accessAt last)
        if peer then
          (List.range beats).foldl (fun s i => s.sendFlit s.cur.word (s.now + k.step * i) s.id.dev target.dev
            (.peerRequest (.feed job (i / 16) (i % 16) []))) s
        else s.sched (s.now + k.ar) phRead (.accessPerform (.feedRead s.cur.word job 0 0 [])))

/-- qfd.sp. -/
def execQfdSp (_g : BitVec 4) (q : BitVec 3) (a : BitVec 5) (n : BitVec 4) (t : BitVec 5) (o : Bool) (p : BitVec 3)
    (s : State) : Out :=
  feeds ⟨.sp, 1024, 6, 1, 3, portSR⟩ q a n 0 ((tagOf t).getD .none) (pitchOf o p) s
/-- qfd.hbm. -/
def execQfdHbm (_g : BitVec 4) (q : BitVec 3) (a : BitVec 5) (n : BitVec 4) (h : BitVec 5) (o : Bool) (p : BitVec 3)
    (s : State) : Out :=
  feeds ⟨.hbm, 1024, 300, 17, 301, portHR⟩ q a n h.toNat (hTag (s.me.rh h.toNat)) (pitchOf o p) s
/-- qfd.peer. DESIGN CHOICE: the tag of its entries is that of the issuing core's handle (log 148). -/
def execQfdPeer (_g : BitVec 4) (q : BitVec 3) (a : BitVec 5) (n : BitVec 4) (h : BitVec 5) (o : Bool) (p : BitVec 3)
    (s : State) : Out :=
  feeds ⟨.peer, 256, 300, 24, 301, portPR⟩ q a n h.toNat (hTag (s.me.rh h.toNat)) (pitchOf o p) s

/-- The image of an entry's bytes, in column order where the feed asks for it. -/
def feedImage (f : FeedJob) (bytes : List Byte) : Image :=
  match f.pitch with
  | none => ofBytes bytes
  | some p => columnOrder (widthOf f.tag) p (ofBytes bytes)

/-- Flit b of entry j of a PEER feed has arrived: the entry grows in its queue, and is whole with its last flit. -/
def State.feedArrives (s : State) (w : WordRef) (f : FeedJob) (b : Nat) (bytes : List Byte) : State :=
  let ready := s.now + f.step * (15 - b) + 1
  let grow (e : QEnt) : QEnt :=
    if e.word = w ∧ e.ready = ready then
      let raw := e.tile.data ||| (ofBytes bytes <<< (8 * 256 * b))
      { e with tile := { e.tile with data := if b = 15 then feedImage f (imageBytes raw) else raw } }
    else e
  let s := if b = 0 then
      s.modCore w.id (fun c => c.setQueue false f.q
        (insertEntry ⟨{ data := 0, tag := f.tag, poison := false }, ready, w, 0, []⟩ (c.queue false f.q)))
    else s
  let s := s.modCore w.id (fun c => c.setQueue false f.q ((c.queue false f.q).map grow))
  if b = 15 then s.sched ready phLand (.queueEntryReady w false f.q ready) else s

/-- Beat b of entry j of a feed reads (R168); of a PEER feed it is the flit that arrives. -/
def performFeedRead (w : WordRef) (f : FeedJob) (j b : Nat) (got : List Byte) (s : State) : State :=
  if f.target.isSome then s.perform w [] (fun s => s.feedArrives w f b got)
  else
    let a := f.addr + 4096 * j + f.beat * b
    s.perform w [s.poisonChk w.id (s.ctxW w) f.src a f.beat, s.watchChk w f.src a f.beat false] (fun s =>
      let bytes := got ++ s.readSpace w.id (s.ctxW w) f.src a f.beat
      if f.beat * (b + 1) < 4096 then
        s.sched (s.now + f.step) phRead (.accessPerform (.feedRead w f j (b + 1) bytes))
      else
        let s := s.enqueue false f.q ⟨{ data := feedImage f bytes, tag := f.tag, poison := false }, s.now + f.lag, w, 0, []⟩
        if j + 1 < f.entries then s.sched (s.now + f.step) phRead (.accessPerform (.feedRead w f (j + 1) 0 []))
        else s)

/-! ## Drains (R169) -/

/-- The checks of a pop of a drain: the queue, the entry's poison, its pitch. -/
def drainChks (c : Core) (now : Nat) (d : DrainJob) : List Check :=
  let w := (c.readyHead now true d.o).map (fun e => widthOf e.tile.tag)
  [popChk c now true d.o, chk (!(w.map (pitchFits d.pitch)).getD true) 0x22 0]

/-- Entry j of a drain is popped, and its four beats are on their way to SP (R169). -/
def State.drains (s : State) (w : WordRef) (d : DrainJob) (j : Nat) : State :=
  match (s.coreAt w.id).readyHead s.now true d.o with
  | none => s
  | some e =>
    let x := match d.pitch with
      | none => e.tile.data
      | some p => rowOrder (widthOf e.tile.tag) p e.tile.data
    let bytes := imageBytes x
    let s := s.modCore w.id (fun c => c.popped true d.o)
    let s := (List.range 4).foldl (fun s b =>
      s.writeAt (s.now + 6 + b) w .sp (d.addr + 4096 * j + 1024 * b) ((bytes.drop (1024 * b)).take 1024) []) s
    if j + 1 < d.entries then s.sched (s.now + 4) phRead (.accessPerform (.drainPop w d (j + 1))) else s

/-- A later pop of a drain. -/
def performDrainPop (w : WordRef) (d : DrainJob) (j : Nat) (s : State) : State :=
  s.perform w (drainChks (s.coreAt w.id) s.now d) (fun s => s.drains w d j)

/-- odr.sp oi, [aa], nc: the first pop is made at issue (R169). -/
def execOdrSp (_g : BitVec 4) (q : BitVec 2) (a : BitVec 5) (n : BitVec 4) (o : Bool) (p : BitVec 3) (s : State) : Out :=
  let addr := (s.me.ra a.toNat).toNat
  let e := (s.me.rn n.toNat).toNat
  let job : DrainJob := { o := q.toNat, addr := addr, entries := e, pitch := pitchOf o p }
  if e = 0 then s.word [] id
  else
    s.portWord (drainChks s.me s.now job ++ [boundChk .sp spSize addr (4096 * e)])
      (fun _ => beatsOn portSW (s.now + 6) 1 (4 * e))
      (fun s => (s.drains s.cur.word job 0).modMe (fun c => c.accessAt (s.now + 4 * e + 5)))

/-! ## Reads of other members (R148, R271) -/

/-- A failure at the target is raised on the issuing core at a stated count, before words issue there (R148). -/
def State.failsAt (s : State) (w : WordRef) (t cause : Nat) (detail : BitVec 256) : State :=
  s.sched t phControl (.leasedResult w (.fault cause detail))

/-- The target's read of a scalar PEER load, at t + 300 + H: translation and protection are checked there (R148). -/
def State.peerLoads (s : State) (w : WordRef) (x : CoreId) (addr size : Nat) (dst : LoadDst) (h : Nat) : State :=
  let ctx := s.ctxW w
  let peer := s.peerAddr w x addr
  match firstFault [s.pageChk x.dev ctx .peer peer addr size, s.protectChk x.dev ctx .peer peer addr size] with
  | some (cause, detail) => s.failsAt w (s.now + 460 + h) cause detail
  | none => s.perform w [s.poisonChk x ctx .hbm addr size, s.watchChk w .peer peer size false] (fun s =>
      let v := BitVec.ofNat 64 (leNat (s.readHbm x.dev ctx addr size))
      s.sendFlit w (s.now + 459) x.dev w.id.dev (.peerResponse [] (some (dst, v))))

/-- Poisoned lines among the mapped ones that a beat of a PEER read covers. -/
def State.peerPoison (s : State) (x : CoreId) (ctx a n : Nat) : List Nat :=
  (s.poisonLines x ctx .hbm a n).filter (fun l => (s.page? x.dev ctx (64 * l)).isSome)

/-- What a beat of a PEER read finds at the target. DESIGN CHOICE: bytes that no page maps there are free values (log 143). -/
def State.peerRead (s : State) (d ctx a n : Nat) : List Byte × State :=
  if (s.pagesOf d ctx a n).isSome then (s.readHbm d ctx a n, s)
  else ((List.range n).map (fun i =>
      if (s.page? d ctx (a + i)).isSome then s.hbmByte d ctx (a + i) else Config.freeByte (s.free + i)),
    { s with free := s.free + n })

/-- The target's read of a beat of cp.peer.sp or qfd.peer: its handle with the same index must be bound, and no extent is
checked there (R148). A failure falls at the word's first SP write tick, or at this beat's where that has passed. DESIGN CHOICE:
qfd.peer writes no SP, and the ready tick of its entry 0 stands for that tick (log 142). -/
def State.peerBeat (s : State) (w : WordRef) (x : CoreId) (handle off n first : Nat)
    (lands : State → Nat → List Byte → List Nat → List (Nat × Access)) (h : Nat) : State :=
  let ctx := s.ctxW w
  let c := s.coreAt x
  if !c.isBound handle then
    s.failsAt w (if s.now < first then first else s.now + 300 + h) 0x14
      (addrDetail .peer (s.peerAddr w x off))
  else
    let a := hBase (c.rh handle) + off
    s.perform w [s.watchChk w .peer (s.peerAddr w x off) n false] (fun s =>
      let r := s.peerRead x.dev ctx a n
      r.2.sendFlit w (s.now + 300) x.dev w.id.dev (.peerResponse (lands s a r.1 (s.peerPoison x ctx a n)) none))

/-- The target's read of a PEER request (R148, R271). -/
def execPeerRequest (w : WordRef) (p : PeerJob) (s : State) : Out :=
  .next (match p with
    | .load x addr size dst h => s.peerLoads w x addr size dst h
    | .copy c j =>
      let x := c.target.getD w.id
      let off := c.sAddr + c.beat * j
      let n := min c.beat (c.len - c.beat * j)
      let dst := c.dAddr + c.beat * j
      s.peerBeat w x c.handle off n (s.now + 300 + c.h - c.step * j)
        (fun _ a bytes poison => [(0, .store w c.dst dst bytes (movedPoison a dst poison))]) c.h
    | .feed f j b _ =>
      let x := f.target.getD w.id
      let off := f.addr + 4096 * j + f.beat * b
      let a := hBase ((s.coreAt x).rh f.handle) + off
      match if (s.coreAt x).isBound f.handle then s.peerPoison x (s.ctxW w) a f.beat else [] with
      | l :: _ => s.raise w.eng w true 0x42 (unitDetail (spaceUnit .hbm) (64 * l))
      | [] => s.peerBeat w x f.handle off f.beat (s.now + 301 + f.h + f.step * (15 - b) - 384 * j)
          (fun _ _ bytes _ => [(0, .feedRead w f j b bytes)]) f.h)

end Sys2Proof.Machine
end

