-- ==== Sys2Proof/Machine/Commands.lean ====
section
/-! DEFINITION. What patch and sketch commands share (R244–R248, R291–R295): their issue, the reads of descriptor and
input, what happens at the tick π, and the records and outputs they write. -/

namespace Sys2Proof.Machine

/-! ## Issue -/

/-- The group a[aa], a[aa + 1] of a command: the descriptor's address and the sizing word. -/
def Core.cmdGroup (c : Core) (a : BitVec 5) : Nat × Reg := ((c.ra a.toNat).toNat, c.ra (a.toNat + 1))

/-- The region id that a command issued now carries (R116, R117, R255). -/
def State.regionNow (s : State) : BitVec 13 :=
  if kraalCovers s.me s.now then (s.me.kraal.map (·.region)).getD 0 else 0

/-- The largest leg tick (R21). -/
def legLimit : Nat := 2 ^ 22 - 1

/-- The value of "none" in a descriptor's address field. -/
def noAddr : Nat := 0xFFFFFFFF

/-- A command as its issue captures it: handles, W, P, BI, BO, the descriptor's address. -/
def State.command (s : State) (op : NmuOp) (h k : Nat) (work pbytes bi bo descAt : Nat) : NmuCmd :=
  { op := op, word := s.cur.word, ha := s.me.rh h, hb := s.me.rh k, work := work, pbytes := pbytes, bi := bi, bo := bo,
    descAt := descAt, region := s.regionNow, desc := 0, input := [], second := [], poison := none }

/-- A command word with its own checks (R246, R247, R293, R294): the ports SR and SW, π, the descriptor's range; then
the descriptor is read at t + 6. `outs` is how many SW beats it has from π + 300 on. -/
def State.issueCommand (s : State) (c : NmuCmd) (handles : List Nat) (outs : Nat) (checks : List Check) : Out :=
  let pi := s.now + 600 + c.work
  let last := pi + 300 + (outs - 1)
  let beats := beatsOn portSR (s.now + 6) 1 (1 + c.bi) ++ beatsOn portSW (pi + 300) 1 outs
  s.word (checks ++ [alignChk .sp c.descAt 64, boundChk .sp spSize c.descAt 64, s.portChk beats,
      chk (s.me.pis.contains pi) 0x15 0])
    (fun s =>
      let s := (s.reserve beats).modMe (fun x =>
        { x.accessAt last with pis := pi :: x.pis.filter (fun t => s.now < t) })
      let s := handles.foldl (fun s h => s.capture h (last + 1)) s
      s.sched (s.now + 6) phRead (.accessPerform (.descRead c)))

/-- The last SW beat of a command issued now falls after the last leg tick. -/
def State.pastLeg (s : State) (work outs : Nat) : Bool :=
  decide (legLimit < s.tick + 600 + work + 300 + (outs - 1))

/-! ## The descriptor and the input beats -/

/-- A check of a command at t + 6 or at an input beat, charged to the AX word; else it goes on. -/
def State.cmdStage (s : State) (c : NmuCmd) (checks : List Check) (f : State → State) : State :=
  s.perform c.word checks f

/-- The object that a command changes or reports: B of ptrans (R253), else what its first handle names. -/
def targetHandle (c : NmuCmd) : BitVec 256 := if c.op = .ptrans ∨ c.op = .ptransA then c.hb else c.ha

/-- The id of a tensor or sketch. -/
def objectId (h : BitVec 256) : Nat := if hIsSketch h then hSkid h else hTid h

/-- The home NMU of a command: the id of its object modulo the NMUs of the partition (R237, R284). -/
def State.homeNmu (s : State) (c : NmuCmd) : Nat :=
  let n := ((shapeOf (s.dev c.word.id.dev).partset.toNat c.word.id.part).map shapeNmus).getD 1
  objectId (targetHandle c) % n

/-- A command performs at its home NMU in the order of R227. `two` says that it reads a second object at π − 1. -/
def State.schedPerform (s : State) (c : NmuCmd) (pi : Nat) (two : Bool) (act : NmuCmd → Instr) : State :=
  if two then s.sched pi phRead (.accessPerform (.secondRead c))
  else s.schedAt pi phNmu c.word.id.core c.word.id.dev (s.homeNmu c) (act c)

/-- The descriptor has been read (R246, R293): the input beats follow, or the perform where there are none, or where π
comes before the last of them. -/
def State.afterDesc (s : State) (c : NmuCmd) (two : Bool) (act : NmuCmd → Instr) : State :=
  let pi := s.now + 594 + c.work
  let s := if c.bi = 0 ∨ pi < s.now + c.bi then s.schedPerform c pi two act else s
  if 0 < c.bi then s.sched (s.now + 1) phRead (.accessPerform (.inputRead c 0)) else s

/-- Input beat j has been read: the next one follows, and the perform after the last. -/
def State.afterInput (s : State) (c : NmuCmd) (j : Nat) (two : Bool) (act : NmuCmd → Instr) : State :=
  let pi := s.now + 593 - j + c.work
  if j + 1 < c.bi then s.sched (s.now + 1) phRead (.accessPerform (.inputRead c (j + 1)))
  else if s.now ≤ pi then s.schedPerform c pi two act else s

/-! ## π -/

/-- The OP of a command's word (R35). -/
def nmuOp : NmuOp → Nat
  | .papplyAdd | .papplySet | .papplyAddw => 0x40
  | .pinv => 0x41
  | .pdrop => 0x42
  | .pcomm => 0x43
  | .ptrans | .ptransA => 0x44
  | .psquash | .psquashX => 0x45
  | .pinfo => 0x46
  | .plog | .plogR => 0x47
  | .skinit => 0x50
  | .skupd => 0x51
  | .skqry => 0x52
  | .skadd | .skaddP => 0x53
  | .skscl => 0x54
  | .skopt => 0x55
  | .skcpyOut | .skcpyIn | .skcpyS => 0x56

/-- The spoor record of an NMU perform (R325). -/
def State.spoorNmu (s : State) (c : NmuCmd) : State :=
  let id := c.word.id
  if s.spoorOn id 4 then
    s.spoorCore id .nmu 1 (s.now - (s.coreAt id).base) (BitVec.ofNat 128 (objectId (targetHandle c) + nmuOp c.op * 2 ^ 32))
  else s

/-- A command performs, or faults at π, which is charged to the NMU (R247, R307). An access that its core issued performs
whether or not the itinerary has gone on to retire (R69); only a fault needs one that runs. -/
def State.nmuPerform (s : State) (c : NmuCmd) (checks : List Check) (f : State → State) : State :=
  match firstFault checks with
  | none => f (if s.mine c.word then s.spoorNmu c else s)
  | some (cause, d) => s.raise .nmu c.word true cause d

/-- The flags of a command join FLAGS_NMU with the results of the tick (R133, R134). -/
def State.nmuFlags (s : State) (c : NmuCmd) (fl : BitVec 5) : State :=
  if fl = 0 then s else s.sched s.now phResult (.leasedResult c.word (.nmuFlags fl))

/-- Bytes cut into beats of 1,024 bytes at rising addresses. -/
def beatsOf (addr : Nat) (bytes : List Byte) : List (Nat × List Byte) :=
  (List.range (ceilDiv bytes.length 1024)).map (fun j => (addr + 1024 * j, (bytes.drop (1024 * j)).take 1024))

/-- Beats are written from a count on, one a tick (R246, R293). -/
def State.writeBeats (s : State) (c : NmuCmd) (t : Nat) : List (Nat × List Byte) → State
  | [] => s
  | (a, bs) :: r => s.sched t phRead (.commandRecordWrite c a bs r)

/-- A beat of a record or output is written into SP (R246, R248, R256, R257, R293, R295). -/
def execCommandRecordWrite (c : NmuCmd) (addr : Nat) (out : List Byte) (left : List (Nat × List Byte)) (s : State) :
    Out :=
  .next ((s.writeAt s.now c.word .sp addr out []).writeBeats c (s.now + 1) left)

/-- n free bytes (log 21). -/
def freeBytes (k n : Nat) : List Byte := (List.range n).map (fun i => Config.freeByte (k + i))

/-- A mapped byte of n at a lies in a frame that refuses writes (R52, R56). -/
def State.refusesWrite (s : State) (d ctx a n : Nat) : Bool :=
  (List.range n).any (fun i => (s.page? d ctx (a + i)).isSome && !s.takesByte d ctx (a + i))

/-- Accesses of a command at π, as (address, bytes, write) in HBM: one that touches a watched range (R323), or a write
to a frame that is executable or being scanned (R52, R56). -/
def State.nmuWatch (s : State) (c : NmuCmd) (touched : List (Nat × Nat × Bool)) : Check :=
  let locked := (touched.find? (fun x => x.2.2 && s.refusesWrite c.word.id.dev (s.ctxW c.word) x.1 x.2.1)).map
      (fun x => (0x13, addrDetail .hbm x.1))
  firstFault [locked, (touched.map (fun x => s.watchChk c.word .hbm x.1 x.2.1 x.2.2)).findSome? (fun x => x)]

/-- HBM that a command consumes at π (R310). -/
def State.nmuPoison (s : State) (c : NmuCmd) (ranges : List (Nat × Nat)) : Check :=
  (ranges.map (fun x => s.poisonChk c.word.id (s.ctxW c.word) .hbm x.1 x.2)).findSome? (fun x => x)

end Sys2Proof.Machine
end

