-- ==== Sys2Proof/Machine/Control.lean ====
section
/-! DEFINITION. The words that streams share (R67–R75, R158), the transfers of SQ (R93–R99), traps (R114, R115), kraals
(R116, R117), pace (R262) and the debug words (R319–R321, R325). -/

namespace Sys2Proof.Machine

/-- The stream of the word being executed, changed. -/
def State.modMine (s : State) (f : Stream → Stream) : State := s.modMe (fun c => c.modStream s.cur.word.eng f)

/-! ## Shared words -/

/-- idle w (R68). -/
def execIdle (_g : BitVec 4) (w : BitVec 21) (s : State) : Out :=
  s.word [] (fun s => s.modMine (fun st => { st with ready := st.ready + w.toNat }))

/-- Every stream forked in the leg has been joined (R69). -/
def Core.allJoined (c : Core) : Bool := [c.vx, c.mx, c.ax].all (fun st => st.st == .unforked || st.joined)

/-- The stream of the word being executed ends (R69). -/
def State.endsStream (s : State) : State := s.modMine (fun st => { st with st := .ended, endTick := s.tick })

/-- The END of SQ: the timed one goes on to the waypoint where the leg has one and else reaches the leg's end, as the
waypoint's does (R69, R97). Whether the END counts toward the leg's end is decided at the end of the count (R83). DEDUCED: an
END of another stream, or a timed one that the waypoint follows, stops its stream whatever another engine of the core does
at that tick (log 107). -/
def State.endsSq (s : State) : State :=
  let sqw := s.legAddr s.id legSqw
  if s.cur.word.wp then s.endsStream.sched s.now phEnd (.leasedResult s.cur.word .ended)
  else
    let s := s.modMe (fun c => { c with rrb := 0 })
    if sqw = 0 then s.endsStream.sched s.now phEnd (.leasedResult s.cur.word .ended)
    else s.modMe (fun c => { c with waypoint := true, sq := { c.sq with pc := sqw, ready := s.tick + 1 } })

/-- end (R69, R97, R117, R154). -/
def execEndW (_g : BitVec 4) (s : State) : Out :=
  let timedSq := s.cur.word.eng == .sq && !s.cur.word.wp
  s.word [s.unshifted, chk (timedSq && !s.me.allJoined) 0x03 0, chk (timedSq && s.me.kraal.isSome) 0x59 0]
    (fun s => match s.cur.word.eng with
      | .sq => s.endsSq
      | .ax => s.endsStream.modMe (fun c => { c with arb := 0 })
      | _ => s.endsStream)

/-- tkset tk, st, ph: the write performs at the end of the tick's issues (R70, R71). -/
def execTkset (_g : BitVec 4) (k : BitVec 6) (st ph : Bool) (s : State) : Out :=
  s.word [] (fun s => s.sched s.now phResult (.leasedResult s.cur.word (.token k.toNat st ph)))

/-- The DETAIL of a token fault (R307). -/
def tokenDetail (k : BitVec 6) (st ph st' ph' : Bool) : BitVec 256 :=
  BitVec.ofNat 256 (k.toNat + st.toNat * 2 ^ 8 + ph.toNat * 2 ^ 9 + st'.toNat * 2 ^ 10 + ph'.toNat * 2 ^ 11)

/-- A tkchk on a token has issued (R324). -/
def Core.countTk (c : Core) (k : BitVec 6) : Core :=
  { c with counters := { c.counters with tkc := vset c.counters.tkc k.toNat (vget 0 c.counters.tkc k.toNat + 1) } }

/-- tkchk tk, st, ph (R71, R76). -/
def execTkchk (_g : BitVec 4) (k : BitVec 6) (st ph : Bool) (s : State) : Out :=
  let st' := s.me.tkState.getLsbD k.toNat
  let ph' := s.me.tkPhase.getLsbD k.toNat
  let detail := tokenDetail k st ph st' ph'
  (s.modMe (fun c => c.countTk k)).word
    [chk (st' != st) 0x00 detail, chk (st' == st && ph' != ph) 0x01 detail, s.unshifted] id

/-- mark n (R72, R76). -/
def execMark (_g : BitVec 4) (n : BitVec 22) (s : State) : Out :=
  s.word [chk (s.tick != n.toNat) 0x02 (n.setWidth 256), s.unshifted] id

/-- A stream that starts at an address and a leg tick (R73). -/
def startStream (pc tick : Nat) : Stream := { Stream.idle with st := .running, pc := pc, ready := tick }

/-- fork strm, t (R73, R76). -/
def execFork (_g : BitVec 4) (m : Strm) (t : BitVec 22) (s : State) : Out :=
  let e := strmEngine m
  let pc := s.legAddr s.id (legField e)
  s.word [chk (decide (t.toNat < s.tick + 4) || pc == 0 || (s.me.stream e).st != .unforked) 0x04 0, s.unshifted]
    (fun s => s.modMe (fun c => c.modStream e (fun _ => startStream pc t.toNat)))

/-- The streams that a join mask names, in the order of R74. -/
def joinSet (m : BitVec 3) : List Engine :=
  (if m.getLsbD 0 then [.vx] else []) ++ (if m.getLsbD 1 then [.mx] else []) ++ (if m.getLsbD 2 then [.ax] else [])

/-- A stream may be joined at this count (R74). -/
def State.joinable (s : State) (e : Engine) : Bool :=
  let st := s.me.stream e
  st.st == .ended && decide (st.endTick < s.tick) && s.me.leases.all (fun l => l.eng != e || decide (l.till ≤ s.now))

/-- The streams of a join mask are joined. -/
def State.joins (s : State) (m : BitVec 3) : State :=
  s.modMe (fun c => (joinSet m).foldl (fun c e => c.modStream e (fun st => { st with joined := true })) c)

/-- join: the record of a join miss names the first failing stream (R74, R76; log 99). -/
def execJoin (_g : BitVec 4) (m : BitVec 3) (s : State) : Out :=
  match (joinSet m).find? (fun e => !s.joinable e) with
  | none => s.word [s.unshifted] (fun s => s.joins m)
  | some e =>
    if (s.cur.bar.map (fun code => decide (code < 0x03))).getD false then s.word [] id
    else .next (s.raise e s.cur.word true 0x03 0)

/-- The yield list of the core's leg, as its bytes stood when the previous count ended (R59, R75, R225). -/
def State.yieldList (s : State) (id : CoreId) (leg : Nat) : List Nat :=
  let r := s.legRecord id leg
  (List.range (nfield r 56 8)).map (fun i => leNat ((s.asLeft id.dev).readHbm id.dev (s.ctxNo id) (nfield r 64 64 + 4 * i) 4))

/-- yield: a yield point. In timed code its tick must be listed, and the core must be quiescent when the tick ends
(R75, R76, R83). -/
def execYieldW (_g : BitVec 4) (s : State) : Out :=
  s.word [s.unshifted, chk (!s.cur.word.wp && !(s.yieldList s.id s.me.leg).contains s.tick) 0x09 0]
    (fun s => (s.modMe (fun c => { c with yielded := some s.tick })).sched s.now phLast
      (.leasedResult s.cur.word .yieldPoint))

/-- A body of `len` words that follows this word and runs I times begins (R158, R159). -/
def State.repeats (s : State) (len i : Nat) : State :=
  let first := s.cur.pc + 4
  let stop := first + 4 * len
  s.modMine (fun st => if i = 0 then { st with pc := stop } else { st with reps := ⟨first, stop, i - 1⟩ :: st.reps })

/-- rep count, label (R158, R159). -/
def execRep (_g : BitVec 4) (len : BitVec 9) (cnt : BitVec 12) (s : State) : Out :=
  s.word [] (fun s => s.repeats (len.toNat + 1) (cnt.toNat + 1))

/-- repn na, label (R158, R159). -/
def execRepn (_g : BitVec 4) (len : BitVec 9) (n : BitVec 4) (s : State) : Out :=
  s.word [] (fun s => s.repeats (len.toNat + 1) (s.me.rn n.toNat).toNat)

/-! ## The balanced branch and the loop (R93, R94, R96) -/

/-- Where SQ may go from the timed word i at a, n words long (R69, R93, R96). -/
def nextWords (a n : Nat) (i : Instr) : List Nat :=
  let dest {w : Nat} (o : BitVec w) : Nat := ((a : Int) + 4 * o.toInt).toNat
  match i with
  | .brb _ p o => if p = 0 then [dest o] else [a + 4, dest o]
  | .brbN _ p o => if p = 0 then [a + 4] else [a + 4, dest o]
  | .loop _ _ _ o => [a + 4, dest o]
  | .endW _ => []
  | _ => [a + 4 * n]

/-- The addresses of the words that SQ can come to from the words of `todo` before it is at `branch` again, beside those of
`seen`. A word that cannot be fetched is among them, and nothing is known beyond it. -/
def State.armFrom (s : State) (branch : Nat) : Nat → List Nat → List Nat → List Nat
  | 0, _, seen => seen
  | _ + 1, [], seen => seen
  | fuel + 1, a :: todo, seen =>
    if a = branch ∨ seen.contains a then s.armFrom branch fuel todo seen
    else match (s.wordsAt s.id.dev (s.ctxNo s.id) .sqTimed a).map (decode .sqTimed) with
      | some (.ok (i, n)) =>
        s.armFrom branch fuel (nextWords a n i ++ todo) ((List.range n).map (fun j => a + 4 * j) ++ seen)
      | _ => s.armFrom branch fuel todo (a :: seen)

/-- More words than a page of timed code holds, twice over: a word puts at most two others on the list. -/
def armFuel : Nat := 2 ^ 21

/-- The words of one arm that SQ cannot come to by the other: the arm up to the rejoin (R94, R95; log 25). -/
def State.armWords (s : State) (branch lost won : Nat) : List Nat :=
  let other := s.armFrom branch armFuel [won] []
  (s.armFrom branch armFuel [lost] []).filter (fun a => !other.contains a)

/-- The half of the losing arm is recycled: each poisoned entry of the arm charges the bank that held it, each failed fetch the
bank of the arm (R94). DEDUCED: an entry that an uncorrectable error struck was charged then, and is charged here again: R316
lists both events (log 115). -/
def State.recycle (s : State) (lost won bank : Nat) : State :=
  let arm := s.armWords s.cur.pc lost won
  let bad := s.me.split.filter (fun x => arm.contains x.2)
  let unfetched := arm.filter (fun a =>
    (s.wordAt s.id.dev (s.ctxNo s.id) .sqTimed a).isNone && bad.all (fun x => x.2 != a))
  let s := s.modMe (fun c => { c with split := c.split.filter (fun x => !arm.contains x.2) })
  (bad.map (·.1) ++ unfetched.map (fun _ => bank)).foldl (fun s b => s.charge s.id .splitBank b (s.wu s.id.dev)) s

/-- The checks of a branch: its predicate, and its target where it is taken (R55, R77). -/
def State.branchChks (s : State) (p : BitVec 4) (taken : Bool) (a : Nat) : List Check :=
  s.pFree p.toNat :: (if taken then s.transferChks .sqTimed false a else [])

/-- The effect of a branch (R93, R94): bank 0 holds the arm that follows the word, bank 1 the arm at the target. -/
def State.branches (s : State) (taken : Bool) (a : Nat) : State :=
  let next := s.cur.pc + 4
  if taken then (s.recycle next a 0).goTo a else s.recycle a next 1

/-- brb pa, label (R93). -/
def execBrb (_g p : BitVec 4) (o : BitVec 16) (s : State) : Out :=
  let taken := s.me.rp p.toNat
  s.word (s.branchChks p taken (s.target o.toInt)) (fun s => s.branches taken (s.target o.toInt))

/-- brb.n pa, label (R93). -/
def execBrbN (_g p : BitVec 4) (o : BitVec 16) (s : State) : Out :=
  let taken := !s.me.rp p.toNat
  s.word (s.branchChks p taken (s.target o.toInt)) (fun s => s.branches taken (s.target o.toInt))

/-- The stage predicates after a loop word: p9–p15 take p8–p14, and p8 whether a further iteration starts (R96). -/
def stagePreds (p : BitVec 16) (p8 : Bool) : BitVec 16 :=
  (p.extractLsb' 8 7 ++ BitVec.ofBool p8) ++ p.extractLsb' 0 8

/-- loop sc, stages, label (R96, R97). -/
def execLoop (_g : BitVec 4) (c : BitVec 6) (stg : BitVec 3) (o : BitVec 12) (s : State) : Out :=
  let n := s.me.rs c.toNat
  let a := s.target o.toInt
  s.word (s.sFree c.toNat :: (List.range 8).map (fun j => s.pFree (8 + j)) ++
      (if n != 0 then s.transferChks .sqTimed false a else []))
    (fun s =>
      let s := s.modMe (fun x => { x.ws c.toNat (if n = 0 then n else n - 1) with
        p := stagePreds x.p (decide (stg.toNat < n.toNat)), rrb := x.rrb + 31 })
      if n = 0 then s else s.goTo a)

/-! ## Untimed transfers (R99) -/

/-- jmp label. -/
def execJmp (o : BitVec 21) (s : State) : Out :=
  s.word (s.transferChks .sqWaypoint true (s.target o.toInt)) (fun s => s.goTo (s.target o.toInt))

/-- call label. -/
def execCall (o : BitVec 21) (s : State) : Out :=
  s.word (s.sFree 63 :: s.transferChks .sqWaypoint true (s.target o.toInt))
    (fun s => (s.modMe (fun c => c.ws 63 (BitVec.ofNat 64 (s.cur.pc + 4)))).goTo (s.target o.toInt))

/-- ret. -/
def execRet (s : State) : Out :=
  s.word (s.sFree 63 :: s.transferChks .sqWaypoint true (s.me.rs 63).toNat) (fun s => s.goTo (s.me.rs 63).toNat)

/-! ## Traps (R114, R115) -/

/-- trap code: in timed code a fault; in waypoint code handler entry, or double trap. -/
def execTrap (_g : BitVec 4) (c : BitVec 8) (s : State) : Out :=
  let wp := s.cur.word.wp
  let double := s.me.tstate || s.me.tvec == 0
  s.word ([chk (!wp) softwareTrap (c.setWidth 256), chk (wp && double) 0x51 0] ++
      (if wp && !double then s.transferChks .sqWaypoint false s.me.tvec.toNat else []))
    (fun s => s.enterTrap c)

/-- eret. -/
def execEret (_g : BitVec 4) (s : State) : Out :=
  s.waypointWord ([chk (!s.me.tstate) 0x52 0] ++
      (if s.me.tstate then s.transferChks .sqWaypoint true s.me.tepc.toNat else []))
    (fun s => s.leaveTrap)

/-! ## Kraals (R116, R117) -/

/-- kopen herd, region, label. -/
def execKopen (_g : BitVec 4) (hd : BitVec 8) (rg : BitVec 13) (o : BitVec 21) (s : State) : Out :=
  let herd := s.herd s.id hd.toNat
  s.word [chk (!herd.contains s.id) 0x57 0, chk s.me.kraal.isSome 0x59 0]
    (fun s => s.modMe (fun c => { c with kraal := some ⟨rg, hd.toNat, s.target o.toInt, s.now⟩ }))

/-- kclose region. -/
def execKclose (_g : BitVec 4) (rg : BitVec 13) (s : State) : Out :=
  s.word [chk (!(s.me.kraal.map (fun k => k.region == rg)).getD false) 0x59 0]
    (fun s => s.modMe (fun c => { c with kraal := none }))

/-! ## Pace (R262) -/

/-- A pace on a device at count t, where its lead stood at ℓ: the lead falls, and the next tick is one pulse longer. -/
def Device.paced (d : Device) (t : Nat) : Device :=
  { d with lead := d.lead - 16, pacePulses := d.pacePulses ++ [t + 1] }

/-- The lead asks for a pulse, and no other pace of the tick has taken it. -/
def State.pulses (s : State) (d : Nat) : Bool :=
  decide (8 ≤ (s.pastDev d).lead) && !(s.dev d).pacePulses.contains (s.now + 1)

/-- A device paces: at most one pulse for the tick after it, with its hold record (R325), and the pace window restarts. -/
def State.paces (s : State) (d : Nat) : State :=
  let s := if s.pulses d then
      (s.modDev d (fun x => x.paced s.now)).spoorDevAt (s.now + 1) d .drover 5 (BitVec.ofNat 128 (1 + 2 ^ 16))
    else s
  s.modDev d (fun x => { x with paceFrom := s.now })

/-- pace. -/
def execPace (_g : BitVec 4) (s : State) : Out := s.word [] (fun s => s.paces s.id.dev)

/-- The count from which the pace window of a device runs restarts, and its end is due 2^22 counts later (R263). -/
def State.restartPace (s : State) (d : Nat) : State :=
  let s := { s with agenda := s.agenda.filter (fun p => p.act != Instr.paceLoss || p.who.dev != d) }
  (s.modDev d (fun x => { x with paceFrom := s.now })).schedDev (s.now + 2 ^ 22) phControl d .paceLoss

/-- The end of the pace window of a device is on its way. -/
def State.paceDue (s : State) (d : Nat) : Bool := s.agenda.any (fun p => p.act == Instr.paceLoss && p.who.dev == d)

/-! ## Debug words (R319–R321, R325) -/

/-- brk code. -/
def execBrk (_g : BitVec 4) (c : BitVec 8) (s : State) : Out :=
  s.word [chk ((s.ctxOf s.id).brken.getLsbD 0) 0x5B (c.setWidth 256)] id

/-- trig sa: the group trigger is armed at the count in s[sa]. -/
def execTrig (_g : BitVec 4) (a : BitVec 6) (s : State) : Out :=
  let x := (s.me.rs a.toNat).toNat
  s.word [s.sFree a.toNat, chk (decide (x < s.now + 8192) || s.trigger.isSome) 0x5D 0]
    (fun s => { s with trigger := some x }.sched x phControl (.triggerLatch x))

/-- spoor sa, 0: a marker. -/
def execSpoorMarker (_g : BitVec 4) (a : BitVec 6) (s : State) : Out :=
  s.word [s.sFree a.toNat] (fun s => s.spoorCore s.id .sq 3 s.tick ((s.me.rs a.toNat).setWidth 128))

/-- spoor sa, 1: the program class mask. -/
def execSpoorClassMask (_g : BitVec 4) (a : BitVec 6) (s : State) : Out :=
  s.word [s.sFree a.toNat, chk ((s.me.rs a.toNat) >>> 6 != 0) 0x5D 0]
    (fun s => s.modMe (fun c => { c with spoorMask := (c.rs a.toNat).setWidth 6 }))

end Sys2Proof.Machine
end

