-- ==== Sys2Proof/Machine/Registers.lean ====
section
/-! DEFINITION. The program view (R111, R112) and the control view (R327) of registers, and what writes of RELEASE
(R308), STOPC (R322) and PARTSET (R4, R318) do. -/

namespace Sys2Proof.Machine

/-! ## RELEASE, STOPC, PARTSET -/

/-- A serve of a device's drover at the end of this count; for another device's partition the leader's as well. -/
def State.serveSoon (s : State) (d : Nat) : State :=
  let s := s.schedDev s.now phLand d .droverServe
  if d = 0 then s else s.schedDev s.now phLand 0 .droverServe

/-- A partition of a device. -/
def State.partOf (s : State) (d p : Nat) : Part := look ⟨none, false⟩ p (s.dev d).parts

/-- A partition set. -/
def State.setPart (s : State) (d p : Nat) (x : Part) : State := s.modDev d (fun y => { y with parts := put p x y.parts })

/-- The bound handles of a core unbound, their pins released (R66, R106, R308). -/
def State.unbindAll (s : State) (id : CoreId) : State :=
  let s := (List.range 32).foldl (fun s i => if (s.coreAt id).isBound i then s.unpin id i else s) s
  s.modCore id (fun c => { c with bound := 0 })

/-- The itinerary of a context that stands halted on a device. -/
def State.haltedRun (s : State) (d ctx : Nat) : Option Nat :=
  (s.runs.find? (fun x => x.2.ctx == ctx && x.2.st == .halted && x.2.members.any (fun m =>
    m.1 == d && (s.partOf m.1 m.2).halted && (s.partOf m.1 m.2).run == some x.1))).map (·.1)

/-- A halted partition of a context on a device is freed (R106, R308). The itinerary is gone when the last of its
partitions is, and the drovers of its members serve: a head of the context may be eligible there now (R63). -/
def State.releasePart (s : State) (d ctx : Nat) : State :=
  match s.haltedRun d ctx with
  | none => s
  | some r =>
    let x := s.run r
    let here := x.members.filter (fun m => m.1 == d)
    let s := here.foldl (fun s m => ((coresOn x m).foldl State.unbindAll s).setPart m.1 m.2 ⟨none, false⟩) s
    let s := if x.members.any (fun m => (s.partOf m.1 m.2).run == some r) then s
      else s.modRun r (fun x => { x with st := .retired })
    x.members.foldl (fun s m => s.serveSoon m.1) (s.serveSoon x.home)

/-- The itinerary of a context that a stop can still reach: one that has been served and has neither halted nor retired
(R322). -/
def State.stoppable (s : State) (ctx : Nat) (d : Nat) : Option Nat :=
  (s.runs.find? (fun x => x.2.ctx == ctx && x.2.live && x.2.members.any (fun m => m.1 == d))).map (·.1)

/-- A write of a count S to STOPC (R322): the itinerary of the selected context that a stop can reach is to stop at S, as a
halt of cause 0x5E that arises at T = S − 8,192. An earlier count stops nothing. -/
def State.stopAt (s : State) (d ctx : Nat) (v : Reg) : State :=
  let s := s.modDev d (fun x => { x with stopc := v })
  if v.toNat < s.now + 8192 then s
  else
    match s.stoppable ctx d with
    | none => s
    | some r =>
      let t := v.toNat - 8192
      s.schedDev t phEnd d (.haltFlit d r t .itinerary d 0x5E)

/-- An itinerary is queued on a device: in a queue of its own drover, or in the leader's with the device among its members
(R62). -/
def State.queuedOn (s : State) (d : Nat) : Bool :=
  (s.dev d).ctxs.toList.any (fun x => x.queues.toList.any (fun q => !q.isEmpty)) ||
    s.devs.any (fun y => y.2.ctxs.toList.any (fun x => x.queues.toList.any (fun q =>
      q.any (fun e => e.members.any (fun m => m.1 == d)))))

/-- An itinerary is queued or running on a device. DEDUCED: one that has been served and has neither halted nor retired
runs, suspended or readmitted ones included; a halted one that waits for RELEASE does not (log 102). -/
def State.busyDev (s : State) (d : Nat) : Bool :=
  s.queuedOn d || s.runs.any (fun x => x.2.live && x.2.members.any (fun m => m.1 == d))

/-- A write of PARTSET (R4, R318): every set has 128 cores. A value the field cannot hold leaves it (log 36). DESIGN CHOICE: a
partition that stands halted stays so under its number in the new set, and its other partitions are free (log 131); what a core
keeps from itinerary to itinerary is found by the core of the same partition and number in the new set (log 144). -/
def State.writePartset (s : State) (d : Nat) (v : Reg) : State :=
  if s.busyDev d || (s.dev d).working < 128 || decide (3 < v.toNat) then s else s.modDev d (fun x => { x with partset := v.setWidth 2 })

/-! ## The control view (R327) -/

/-- The core that CORESEL names: bits 7:0 the logical core, bits 15:8 the member of the selected context's itinerary
(log 27). DESIGN CHOICE: a logical core beyond the shape names a core of that number that no itinerary has, and a member that
the itinerary lacks names partition 0 of the device (log 132). -/
def State.selectedCore (s : State) (d : Nat) : CoreId :=
  let x := s.dev d
  let n := field x.coresel 0 8
  match s.runs.find? (fun r => r.2.ctx == x.ctxsel.toNat % 16 && r.2.st != .retired && r.2.members.any (·.1 == d)) with
  | some r => match r.2.members[field x.coresel 8 8]? with
    | some m => ⟨m.1, m.2, n⟩
    | none => ⟨d, 0, n⟩
  | none => ⟨d, 0, n⟩

/-- A register of the control view of a device that is neither of a context nor of a core; `trigger` is the pending
group trigger. -/
def Device.control? (x : Device) (trigger : Option Nat) (idx : Nat) : Option Reg :=
  match idx with
  | 0x4000 => some x.devid
  | 0x4001 => some (x.life.setWidth 64)
  | 0x4002 => some (x.xen.setWidth 64)
  | 0x4003 => some (x.bootst.setWidth 64)
  | 0x4004 => some (x.partset.setWidth 64)
  | 0x4008 => some x.ctxsel
  | 0x4009 => some x.coresel
  | 0x4020 => some x.rasmark
  | 0x4021 => some x.rasleak
  | 0x4022 => some x.raswt
  | 0x4030 => some x.spctl
  | 0x4031 => some x.spbase
  | 0x4032 => some x.spsize
  | 0x4033 => some x.sprd
  | 0x4034 => some x.spwr
  | 0x4035 => some x.spmark
  | 0x4036 => some x.spdrop
  | 0x4037 => some x.perturb
  | 0x4050 => some x.stopc
  | 0x4060 => some (BitVec.ofNat 64 (trigger.getD 0))
  | 0x4070 => some x.pwrcap
  | _ => if 0x4200 ≤ idx ∧ idx < 0x4280 then some ((vget 0 x.spmap (idx - 0x4200)).setWidth 64) else none

/-- A register of the control view of a context. -/
def Ctx.control? (x : Ctx) (idx : Nat) : Option Reg :=
  match idx with
  | 0x4010 => some x.hostWin
  | 0x4011 => some x.poolWin
  | 0x4012 => some x.dlHost
  | 0x4013 => some x.dlPool
  | 0x4014 => some x.saveArea
  | 0x4015 => some x.faultArea
  | 0x4016 => some x.brken
  | 0x4018 => some (BitVec.ofNat 64 x.control.toNat)
  | _ => none

/-- A counter register: HOLDT, ACC, TKC at their indices from 0x4000 (R324). -/
def Counters.read (k : Counters) (i : Nat) : Option Reg :=
  if i = 0x38 then some k.holdt
  else if 0x100 ≤ i ∧ i < 0x110 then some (vget 0 k.acc (i - 0x100))
  else if 0x140 ≤ i ∧ i < 0x180 then some (vget 0 k.tkc (i - 0x140))
  else none

/-- A register of the control view of a core, with the counters k and the shadows h. -/
def Core.control? (c : Core) (k h : Counters) (idx : Nat) : Option Reg :=
  if 0x4040 ≤ idx ∧ idx < 0x4048 then
    let w := vget { base := 0, ctl := 0 } c.watches ((idx - 0x4040) / 2)
    some (if idx % 2 = 0 then w.base else w.ctl)
  else if 0x4800 ≤ idx then h.read (idx - 0x4800)
  else k.read (idx - 0x4000)

/-- The value of a control index in a device x that holds it itself, in the selected context, or in a core: a reserved index
reads 0; what RELEASE reads is not stated (log 34). -/
def State.controlValue (s : State) (x : Device) (trigger : Option Nat) (core : Option Reg) (idx : Nat) : Reg :=
  if idx = 0x4017 then Config.writeOnly s.free
  else
    match x.control? trigger idx, (vget Ctx.reset x.ctxs (x.ctxsel.toNat % 16)).control? idx, core with
    | some v, _, _ => v
    | none, some v, _ => v
    | none, none, some v => v
    | none, none, none => 0

/-- A csrr of the control view by a core: the registers as the previous tick left them (R111). -/
def State.controlRead (s : State) (id : CoreId) (idx : Nat) : Reg :=
  let c := s.coreAt id
  s.controlValue (s.pastDev id.dev) s.past.trigger (c.control? c.before.1 c.before.2 idx) idx

/-- A read of BAR0 by the host: the registers as they stand, of the core that CORESEL selects (R327). -/
def State.barRead (s : State) (d idx : Nat) : Reg :=
  let id := s.selectedCore d
  s.controlValue (s.dev d) s.trigger ((s.coreAt id).control? (s.countersOf id) (s.shadowsOf id) idx) idx

/-- Expert enable. -/
def Device.expert (x : Device) : Bool := x.xen.getLsbD 0

/-- An expert field written: the change is made under expert enable, and is else refused and noted in XEN (R327). -/
def Device.expertWrite (x : Device) (f : Device → Device) : Device :=
  if x.expert then f x else { x with xen := x.xen ||| 2 }

/-- SPCTL written: LOSS clears on 1; HOLDE is an expert field, and a write of SPCTL is a write of it (R327). -/
def Device.writeSpctl (x : Device) (v : Reg) : Device :=
  let loss := x.spctl.getLsbD 2 && !v.getLsbD 2
  let base := setBits (setBits (setBits x.spctl 0 2 v.toNat) 2 1 loss.toNat) 8 6 (field v 8 6)
  ({ x with spctl := base }).expertWrite (fun z => { z with spctl := setBits z.spctl 16 4 (field v 16 4) })

/-- A write of the control view to a device register without a further effect; values a field cannot hold leave it
(log 36). -/
def Device.controlWrite (x : Device) (idx : Nat) (v : Reg) : Device :=
  match idx with
  | 0x4002 => { x with xen := setBits (setBits x.xen 0 1 v.toNat) 1 1 (x.xen.getLsbD 1 && !v.getLsbD 1).toNat }
  | 0x4008 => { x with ctxsel := v &&& 0xF }
  | 0x4009 => { x with coresel := v &&& 0xFFFF }
  | 0x4020 => { x with rasmark := v }
  | 0x4021 => x.expertWrite (fun y => if 10 ≤ v.toNat ∧ v.toNat ≤ 40 then { y with rasleak := v } else y)
  | 0x4022 => x.expertWrite (fun y => { y with raswt := v &&& 0xFFFFFF })
  | 0x4030 => x.writeSpctl v
  | 0x4031 => { x with spbase := v }
  | 0x4032 =>
    if (List.range 19).any (fun k => v.toNat == 2 ^ (k + 12)) then { x with spsize := v } else x
  | 0x4033 => { x with sprd := v &&& 0xFFFFFFFF }
  | 0x4035 => { x with spmark := v }
  | 0x4070 => x.expertWrite (fun y => { y with pwrcap := v })
  | _ => x

/-- A write of the control view to a context register. -/
def Ctx.controlWrite (x : Ctx) (idx : Nat) (v : Reg) : Ctx :=
  match idx with
  | 0x4010 => { x with hostWin := v }
  | 0x4011 => { x with poolWin := v }
  | 0x4012 => { x with dlHost := v }
  | 0x4013 => { x with dlPool := v }
  | 0x4014 => { x with saveArea := v }
  | 0x4015 => { x with faultArea := v &&& ~~~0x3F#64 }
  | 0x4016 => { x with brken := v &&& 3 }
  | _ => x

/-- A write of a watchpoint register. -/
def Core.controlWrite (c : Core) (idx : Nat) (v : Reg) : Core :=
  if 0x4040 ≤ idx ∧ idx < 0x4048 then
    let i := (idx - 0x4040) / 2
    let w := vget { base := 0, ctl := 0 } c.watches i
    let w := if idx % 2 = 0 then { w with base := v &&& ~~~0x3F#64 } else { w with ctl := v &&& 0xFFFFFF1F }
    { c with watches := vset c.watches i w }
  else c

/-- A write of the control view (R327). -/
def State.controlWrite (s : State) (d : Nat) (id : CoreId) (idx : Nat) (v : Reg) : State :=
  let ctx := (s.dev d).ctxsel.toNat % 16
  match idx with
  | 0x4004 => s.writePartset d v
  | 0x4017 => if v = 1 then s.releasePart d ctx else s
  | 0x4050 => s.stopAt d ctx v
  | _ =>
    ((((s.modDev d (fun x => x.controlWrite idx v)).modCtx d ctx (fun x => x.controlWrite idx v)).listed id).modCore id
      (fun c => c.controlWrite idx v)).losslessSoon d

/-! ## The program view (R112) -/

/-- The context of the core as the previous tick left it (R111). -/
def State.pastCtx (s : State) (id : CoreId) : Ctx := vget Ctx.reset (s.pastDev id.dev).ctxs (s.ctxNo id)

/-- A register of the program view as performed at the tick before (R111): what cores share is read as the previous tick left
it, and nothing changes what is a core's own between that and the issue of its word. DEDUCED: at leg tick 0 of a first leg
that departs at D, the queue's registers read as count D − 1 left them, before first departure resets them (log 126). DESIGN
CHOICE: at leg tick 0, where t − 1 is no tick of the leg, LEG_TICK reads 2^64 − 1 and LEGN the leg that has departed (log
137). -/
def State.programRead (s : State) (idx : Nat) : Reg :=
  let c := s.me
  let x := s.pastCtx s.id
  match idx with
  | 0x000 => BitVec.ofNat 64 s.tick - 1
  | 0x001 => BitVec.ofNat 64 (s.ctxNo s.id)
  | 0x002 => BitVec.ofNat 64 s.id.core
  | 0x003 => BitVec.ofNat 64 c.member
  | 0x004 => BitVec.ofNat 64 ((s.runOf s.id).members.length - 1)
  | 0x005 => BitVec.ofNat 64 (field (s.runOf s.id).record 264 24)
  | 0x006 => BitVec.ofNat 64 c.leg
  | 0x010 => c.flagsVx.setWidth 64
  | 0x011 => c.flagsMx.setWidth 64
  | 0x012 => c.flagsNmu.setWidth 64
  | 0x020 => c.tvec
  | 0x021 => c.tepc
  | 0x022 => c.tcause.setWidth 64
  | 0x023 => BitVec.ofNat 64 c.tstate.toNat
  | 0x030 => BitVec.ofNat 64 x.evq.length
  | 0x031 => x.evqLost.setWidth 64
  | 0x032 => BitVec.ofNat 64 x.evqMsix.toNat
  | _ => 0

/-- A write to a per-core register of the program view (R112, R134): at once, before the results of its tick. -/
def Core.programWrite (c : Core) (idx : Nat) (v : Reg) : Core :=
  match idx with
  | 0x010 => { c with flagsVx := cleared c.flagsVx v }
  | 0x011 => { c with flagsMx := cleared c.flagsMx v }
  | 0x012 => { c with flagsNmu := cleared c.flagsNmu v }
  | 0x020 => { c with tvec := v &&& ~~~3#64 }
  | 0x021 => { c with tepc := v }
  | _ => c

/-- A write to a register that cores share: it performs behind the words of its tick (R111, R112). -/
def State.sharedWrite (s : State) (id : CoreId) (idx : Nat) (v : Reg) : State :=
  match idx with
  | 0x031 => s.modCtx id.dev (s.ctxNo id) (fun x => { x with evqLost := cleared x.evqLost v })
  | 0x032 => s.modCtx id.dev (s.ctxNo id) (fun x => { x with evqMsix := v.getLsbD 0 })
  | _ => s.controlWrite id.dev id idx v

end Sys2Proof.Machine
end

