-- ==== Sys2Proof/Machine/Sha256.lean ====
section
/-! DEFINITION. SHA-256 (R118, R328) over whole messages of bytes. Its constants are computed from the primes, and a
round is written over the last four values of the two sequences that it extends. -/

namespace Sys2Proof.Machine

/-- A 32-bit word of the hash. -/
abbrev HWord := BitVec 32

/-! ## Constants -/

/-- The largest r below 2^n, above `r`, whose k-th power does not exceed x: its bits are tried from the highest on. -/
def rootBelow (k x : Nat) : Nat → Nat → Nat
  | 0, r => r
  | n + 1, r => rootBelow k x n (if (r + 2 ^ n) ^ k ≤ x then r + 2 ^ n else r)

/-- 32 bits of the fraction of the k-th root of a prime of less than 9 bits. -/
def rootBits (k p : Nat) : HWord := BitVec.ofNat 32 (rootBelow k (p * 2 ^ (32 * k)) 37 0)

/-- The first 64 primes. -/
def hashPrimes : List Nat :=
  (List.range 312).filter (fun p => decide (1 < p) && (List.range 18).all (fun d => decide (d < 2) || p == d || p % d != 0))

/-- The round constants: cube roots. -/
def roundConstants : List HWord := hashPrimes.map (rootBits 3)

/-- The initial hash value: square roots of the first eight primes. -/
def hashStart : List HWord := (hashPrimes.take 8).map (rootBits 2)

/-! ## Rounds -/

/-- The exclusive or of a word turned right by each of some amounts. -/
def turned (x : HWord) (by' : List Nat) : HWord := by'.foldl (fun y n => y ^^^ x.rotateRight n) 0

/-- Word i of a list, latest first. -/
def back (l : List HWord) (i : Nat) : HWord := l.getD i 0

/-- One round: the last four values of the upper and of the lower sequence, latest first, each extended by one. -/
def hashRound (u : List HWord × List HWord) (kw : HWord) : List HWord × List HWord :=
  let (up, low) := u
  let choice := (back low 0 &&& (back low 1 ^^^ back low 2)) ^^^ back low 2
  let most := (back up 0 &&& (back up 1 ||| back up 2)) ||| (back up 1 &&& back up 2)
  let step := kw + choice + turned (back low 0) [6, 11, 25] + back low 3
  ((step + most + turned (back up 0) [2, 13, 22]) :: up.take 3, (back up 3 + step) :: low.take 3)

/-- n more words of the schedule before those that stand, latest first. -/
def extendSchedule : Nat → List HWord → List HWord
  | 0, l => l
  | n + 1, l =>
    let far := turned (back l 14) [7, 18] ^^^ (back l 14 >>> 3)
    let near := turned (back l 1) [17, 19] ^^^ (back l 1 >>> 10)
    extendSchedule n ((back l 15 + far + back l 6 + near) :: l)

/-- The 16 big-endian words of a block, the last one first. -/
def blockWords (block : List Byte) : List HWord :=
  (List.range 16).map (fun i => BitVec.ofNat 32 (leNat ((block.reverse.drop (4 * i)).take 4)))

/-- A hash value of eight words after one more block. -/
def hashBlock (value : List HWord) (block : List Byte) : List HWord :=
  let keyed := List.zipWith (· + ·) roundConstants (extendSchedule 48 (blockWords block)).reverse
  let (up, low) := keyed.foldl hashRound (value.take 4, value.drop 4)
  List.zipWith (· + ·) value (up ++ low)

/-- A hash value after the first n blocks of a padded message. -/
def hashBlocks : Nat → List HWord → List Byte → List HWord
  | 0, v, _ => v
  | n + 1, v, m => hashBlocks n (hashBlock v (m.take 64)) (m.drop 64)

/-- n big-endian bytes of a number. -/
def beBytes (n x : Nat) : List Byte := (leBytes n x).reverse

/-- A message padded to whole blocks: a one bit, zeros, and its length in bits. -/
def hashPadded (m : List Byte) : List Byte :=
  m ++ 0x80 :: List.replicate ((119 - m.length % 64) % 64) 0 ++ beBytes 8 (8 * m.length)

/-- SHA-256 of a message. -/
def sha256 (m : List Byte) : List Byte :=
  let p := hashPadded m
  (hashBlocks (p.length / 64) hashStart p).flatMap (fun w => beBytes 4 w.toNat)

/-- A measurement register extended with 32 bytes (R118): the hash of its bytes, lowest first, and the new ones. -/
def extended (old : BitVec 256) (bytes : List Byte) : BitVec 256 :=
  BitVec.ofNat 256 (leNat (sha256 (leBytes 32 old.toNat ++ bytes)))

end Sys2Proof.Machine
end

