-- ==== Sys2Proof/Machine/System.lean ====
section
/-! DEFINITION. The event queue (R108–R110), CSRs and counts (R111–R113), link status (R272), XFENCE (R231–R235) and
the privileged words (R118). -/

namespace Sys2Proof.Machine

/-! ## The event queue -/

/-- The records of the core's context that were posted before this count (R109). -/
def State.records (s : State) : List (BitVec 256) := (s.ctxOf s.id).evq.filter (fun r => decide (field r 64 64 < s.now))

/-- A word of SQ that writes s[d] with a value. -/
def State.writesS (s : State) (d : BitVec 6) (v : Reg) : State := s.modMe (fun c => c.ws d.toNat v)

/-- evrd sd, 0–3: a 64-bit word of the head record, 0 where there is none (R109). -/
def execEvrdRead (_g : BitVec 4) (d : BitVec 6) (w : BitVec 2) (s : State) : Out :=
  s.waypointWord [s.sFree d.toNat]
    (fun s => s.writesS d (match s.records with
      | [] => 0
      | r :: _ => BitVec.ofNat 64 (field r (64 * w.toNat) 64)))

/-- evrd sd, 4: the head record is removed, and s[sd] counts what is left (R109). -/
def execEvrdRemove (_g : BitVec 4) (d : BitVec 6) (s : State) : Out :=
  s.waypointWord [s.sFree d.toNat]
    (fun s => (s.modCtx s.id.dev (s.ctxNo s.id) (fun x =>
      { x with evq := if s.records.isEmpty then x.evq else x.evq.tail })).writesS d
        (BitVec.ofNat 64 (s.records.length - 1)))

/-- evrd sd, 5: the records queued (R109). -/
def execEvrdCount (_g : BitVec 4) (d : BitVec 6) (s : State) : Out :=
  s.waypointWord [s.sFree d.toNat] (fun s => s.writesS d (BitVec.ofNat 64 s.records.length))

/-- evwait: completes at once where the queue holds a record, and else waits for one; the wait is a yield point
(R110). -/
def execEvwait (_g : BitVec 4) (s : State) : Out :=
  s.waypointWord []
    (fun s => if (s.ctxOf s.id).evq.isEmpty then
        (s.modMe (fun c => { c with wait := .event })).sched s.now phLast (.leasedResult s.cur.word .yieldPoint)
      else s)

/-! ## CSRs and counts -/

/-- csrr sd, idx (R111). Of pushes that are due at its tick and are lost there it reads no flags (R203). -/
def execCsrr (_g : BitVec 4) (d : BitVec 6) (x : BitVec 15) (s : State) : Out :=
  let control := decide (0x4000 ≤ x.toNat)
  s.word [s.sFree d.toNat, if control then s.privileged else none]
    (fun s => if control then (s.writesS d (s.controlRead s.id x.toNat)).drawn
      else (s.writesS d (s.programRead x.toNat)).modMe (fun c => c.readsFlags s.now (sSlot c d.toNat) x.toNat))

/-- The index names a register that only its own core reaches. -/
def ownCsr (x : Nat) : Bool := decide (x < 0x030)

/-- csrw idx, sa (R111, R112). -/
def execCsrw (_g : BitVec 4) (a : BitVec 6) (x : BitVec 15) (s : State) : Out :=
  s.word [s.sFree a.toNat, if 0x4000 ≤ x.toNat then s.privileged else none]
    (fun s =>
      let v := s.me.rs a.toNat
      if ownCsr x.toNat then s.modMe (fun c => c.programWrite x.toNat v)
      else s.sched s.now phResult (.leasedResult s.cur.word (.csr x.toNat v)))

/-- ccnt sd, 0: the caravan count (R113). -/
def execCcntCount (_g : BitVec 4) (d : BitVec 6) (s : State) : Out :=
  s.word [s.sFree d.toNat] (fun s => s.writesS d (BitVec.ofNat 64 s.now))

/-- ccnt sd, 1: LEG_TICK (R113). -/
def execCcntLegTick (_g : BitVec 4) (d : BitVec 6) (s : State) : Out :=
  s.word [s.sFree d.toNat] (fun s => s.writesS d (BitVec.ofNat 64 s.tick))

/-! ## Link status (R272) -/

/-- The status word of a link. -/
def linkWord (l : Link) : Reg :=
  BitVec.ofBool l.up ++ BitVec.ofBool l.classB ++ 0#6 ++ l.pdev ++ l.plink ++ 0#3 ++ l.ofs ++ l.fecc

/-- The route word to an itinerary member. -/
def State.routeWord (s : State) (m : Nat) : Reg :=
  match (s.runOf s.id).members[m]? with
  | none => 0
  | some x =>
    if m = s.me.member then 0
    else match s.route? s.id.dev x.1 with
      | none => 1#1 ++ 0#63
      | some r => 1#1 ++ 0#43 ++ BitVec.ofNat 4 r.hops.length ++ BitVec.ofNat 16 r.h

/-- The status of links, routes and the lead as the previous tick left them (R272). -/
def State.linkStatus (s : State) (i : Nat) : Reg :=
  let x := s.pastDev s.id.dev
  if i < 0x12 then linkWord (vget Link.reset x.links i)
  else if i < 0x200 then s.routeWord (i - 0x100)
  else if i = 0x200 then BitVec.ofInt 64 x.lead
  else BitVec.ofNat 64 s.past.epoch

/-- lstat sd, idx. -/
def execLstat (_g : BitVec 4) (d : BitVec 6) (x : BitVec 15) (s : State) : Out :=
  s.word [s.sFree d.toNat] (fun s => s.writesS d (s.linkStatus x.toNat))

/-! ## XFENCE -/

/-- A path class of R231 holds an access: sqh, axh, axp, or all three. -/
def inClass (c : BitVec 3) (scalar pool : Bool) : Bool :=
  match c.toNat with
  | 1 => scalar
  | 2 => !scalar && !pool
  | 3 => !scalar && pool
  | _ => true

/-- The untimed accesses of a class of a core issued at a count of at most f that have not performed (R231, R234). -/
def Core.untimed (c : Core) (id : CoreId) (k : BitVec 3) (f : Nat) : List (CoreId × UntimedId) :=
  let scalar := match c.wait with
    | .host _ _ _ _ _ issued => if inClass k true false && decide (issued ≤ f) then [(id, UntimedId.scalar issued)] else []
    | _ => []
  let strays := (c.strays.filter (fun x => inClass k true false && decide (x.issued ≤ f))).map
    (fun x => (id, UntimedId.scalar x.issued))
  scalar ++ strays ++ (c.dispatches.filter (fun d => inClass k false d.pool && decide (d.issued ≤ f) && !d.done)).map
    (fun d => (id, UntimedId.dispatch d.number))

/-- A fence is pending on a core; what it waits for is gathered when the count ends (R234). -/
def State.addFence (s : State) (id : CoreId) (f : Fence) : State :=
  let n := (s.coreAt id).fenceNo
  (s.modCore id (fun c => { c with fences := c.fences ++ [{ f with number := n }], fenceNo := n + 1 })).sched s.now phEnd
    (.fenceRelease ((s.coreAt id).run.getD s.nextRun) id n)

/-- xfence ca, cb, scope (R233–R235). -/
def execXfence (_g : BitVec 4) (ca cb : BitVec 3) (sc : BitVec 5) (s : State) : Out :=
  let scope := ((s.runOf s.id).scopes[sc.toNat]?).getD []
  let full := decide (4 ≤ s.me.fences.length)
  s.word [chk (!scope.contains s.id) 0x58 0, chk (full && !s.cur.word.wp) 0x16 0]
    (fun s =>
      let f : Fence := ⟨0, ca, cb, sc.toNat, s.now, none⟩
      if full then s.modMe (fun c => { c with wait := .fence f }) else s.addFence s.id f)

/-! ## Privileged words (R118) -/

/-- fuserd sd, idx. -/
def execFuserd (_g : BitVec 4) (d : BitVec 6) (x : BitVec 15) (s : State) : Out :=
  s.waypointWord [s.privileged, s.sFree d.toNat]
    (fun s => s.writesS d (look 0 x.toNat (s.dev s.id.dev).fuses))

/-- keywipe. -/
def execKeywipe (_g : BitVec 4) (s : State) : Out :=
  s.waypointWord [s.privileged]
    (fun s => s.modDev s.id.dev (fun x => { x with tenantKeys := [], wipedSince := x.tokenOk }))

/-- PRODUCTION of LIFE (R327). -/
def lifeProduction : BitVec 2 := 1

/-- DEBUG-UNLOCKED of LIFE (R327, R328). -/
def lifeDebug : BitVec 2 := 2

/-- The lifecycle state changes: an unlock token that was verified is bound to the state before (R118, R328). -/
def Device.enterLife (x : Device) (life : BitVec 2) : Device :=
  { x with life := life, tokenOk := x.tokenOk && x.life == life, wipedSince := x.wipedSince && x.life == life }

/-- A device after its reset: every register and table at its reset value, and the lifecycle state DEBUG-UNLOCKED ended
(R272, R327, R328). What fuses, the security controller and firmware hold beyond a reset, and what has left the device,
stands as it was (R318; log 86). -/
def Device.afterReset (x : Device) : Device :=
  { Device.reset with
    links := x.links.map (fun l => { l with up := false, silent := none, ofs := 0, fecc := 0, lastEntry := none }),
    devid := x.devid, life := if x.life == lifeDebug then lifeProduction else x.life, fuses := x.fuses, spmap := x.spmap,
    working := x.working, failed := x.failed, tenantKeys := x.tenantKeys, nonceNo := x.nonceNo, failures := x.failures,
    pinned := x.pinned, unsupported := x.unsupported, msix := x.msix, reports := x.reports }

/-- dbgopen: the port opens, the lifecycle state becomes DEBUG-UNLOCKED, and register 15 is extended (R118, R328). DEDUCED: it
is extended with the state that the device enters, so that an attestation reports the opening (log 127). -/
def execDbgopen (_g : BitVec 4) (s : State) : Out :=
  let x := s.dev s.id.dev
  let life := if x.life == lifeProduction then lifeDebug else x.life
  s.waypointWord [s.privileged, chk (!(x.tokenOk && x.wipedSince)) 0x56 0]
    (fun s => s.modDev s.id.dev (fun x =>
      { x.enterLife life with
               debugOpen := true,
               measurements := vset x.measurements 15 (extended (vget 0 x.measurements 15)
                 (leBytes 32 (Config.lifecycleImage life.toNat).toNat)) }))

/-- measure sa, idx. DESIGN CHOICE: its 32 bytes are read at the count of its issue (log 128), and so as the count before left
them (R225). -/
def execMeasure (_g : BitVec 4) (a : BitVec 6) (x : BitVec 15) (s : State) : Out :=
  let ea := (s.me.rs a.toNat).toNat
  s.waypointWord [s.privileged, s.sFree a.toNat, alignChk .hbm ea 32, boundChk .hbm hbmSize ea 32,
      s.pageChk s.id.dev (s.ctxNo s.id) .hbm ea ea 32, s.protectChk s.id.dev (s.ctxNo s.id) .hbm ea ea 32,
      (s.asLeft s.id.dev).poisonChk s.id (s.ctxNo s.id) .hbm ea 32, s.watchChk s.cur.word .hbm ea 32 false]
    (fun s => s.modDev s.id.dev (fun y =>
      { y with measurements := vset y.measurements x.toNat (extended (vget 0 y.measurements x.toNat)
          ((s.asLeft s.id.dev).readHbm s.id.dev (s.ctxNo s.id) ea 32)) }))

end Sys2Proof.Machine
end

