-- ==== Sys2Proof/Machine/Dispatches.lean ====
section
/-! DEFINITION. HOST and POOL dispatches (R170–R173), completions of untimed accesses (R231, R232) and the release of
fences (R234, R235). -/

namespace Sys2Proof.Machine

/-! ## The completers (R231, log 96) -/

/-- HOST or POOL of a context. -/
def State.far (s : State) (pool : Bool) (ctx : Nat) : Memory := look [] ctx (if pool then s.pool else s.host)

/-- HOST or POOL of a context set. -/
def State.setFar (s : State) (pool : Bool) (ctx : Nat) (m : Memory) : State :=
  if pool then { s with pool := put ctx m s.pool } else { s with host := put ctx m s.host }

/-- Bytes of HOST or POOL written. -/
def State.writeFar (s : State) (pool : Bool) (ctx a : Nat) (bs : List Byte) : State :=
  s.setFar pool ctx (writeBytes (s.far pool ctx) a bs)

/-- What others have written at a completer. -/
def State.outsideFar (s : State) (pool : Bool) (ctx : Nat) (cells : List (Nat × Byte)) : State :=
  s.setFar pool ctx (cells.foldl (fun m c => writeByte m c.1 c.2) (s.far pool ctx))

/-! ## Issue (R170, R171) -/

/-- The range of a dispatch at its completer. -/
def Dispatch.at' (d : Dispatch) : Nat := if d.load then d.src else d.dst

/-- A dispatch is outstanding for the limit of R171. DESIGN CHOICE: a load is through the issue phase of d + ⌈N ÷ 1,024⌉, which
follows its last SW beat, and a store until it is acknowledged (log 141). -/
def Dispatch.outstanding (d : Dispatch) : Bool := !d.ended && (d.load || !d.done)

/-- The bytes of a core's outstanding dispatches of one direction. -/
def Core.outstanding (c : Core) (load : Bool) : Nat :=
  (c.dispatches.filter (fun d => d.load == load && d.outstanding)).foldl (fun m d => m + d.n) 0

/-- The checks of R171, but for the ports. -/
def State.dispatchChks (s : State) (load pool : Bool) (dst src n delta : Nat) : List Check :=
  let x := s.ctxOf s.id
  let far : Space := if pool then .pool else .host
  let win := (if pool then x.poolWin else x.hostWin).toNat
  let dl := (if pool then x.dlPool else x.dlHost).toNat
  let local' := if load then dst else src
  let remote := if load then src else dst
  [boundChk .sp spSize local' n, boundChk far win remote n,
   alignChk (if load then .sp else far) dst 64, alignChk (if load then far else .sp) src 64,
   chk (n % 64 != 0) 0x11 (addrDetail (if load then .sp else far) dst),
   chk (decide (n < 64) || decide (65536 < n) || decide (65536 < s.me.outstanding load + n)) 0x16 0,
   chk (decide (delta < dl + 16 * ceilDiv n 4096) || decide (2 ^ 22 < s.tick + delta + ceilDiv n 1024)) 0x16 0]

/-- x.y [ad], [aa], nc, post: a dispatch with landing tick t + Δ. -/
def dispatches (load pool : Bool) (d a : BitVec 5) (n : BitVec 4) (post : Bool) (s : State) : Out :=
  let dst := (s.me.ra d.toNat).toNat
  let src := (s.me.ra a.toNat).toNat
  let len := (s.me.rn n.toNat).toNat
  let delta := (s.me.rn (n.toNat + 1)).toNat
  let beats := ceilDiv len 1024
  s.portWord (s.dispatchChks load pool dst src len delta)
    (fun _ => if load then beatsOn portSW (s.now + delta) 1 beats else beatsOn portSR (s.now + 6) 1 beats)
    (fun s =>
      let w := s.cur.word
      let no := s.me.dispatchNo
      let x : Dispatch :=
        { number := no, word := w, load := load, pool := pool, dst := dst, src := src, n := len, post := post,
          due := s.now + delta, issued := s.now, data := if load then List.replicate len 0 else [], poison := [],
          chunks := [], done := false, failed := false, ended := false }
      let s := s.modMe (fun c => { c with dispatches := c.dispatches ++ [x], dispatchNo := no + 1 })
      let s := if load then s
        else (s.sched (s.now + 6) phRead (.accessPerform (.dispRead w no 0))).modMe
          (fun c => c.accessAt (s.now + 5 + beats))
      s.sched (s.now + delta) phRead (.dispatchLanding w no))

/-- xld.host. -/
def execXldHost (_g : BitVec 4) (d a : BitVec 5) (n : BitVec 4) (p : Bool) (s : State) : Out :=
  dispatches true false d a n p s
/-- xst.host. -/
def execXstHost (_g : BitVec 4) (d a : BitVec 5) (n : BitVec 4) (p : Bool) (s : State) : Out :=
  dispatches false false d a n p s
/-- xld.pool. -/
def execXldPool (_g : BitVec 4) (d a : BitVec 5) (n : BitVec 4) (p : Bool) (s : State) : Out :=
  dispatches true true d a n p s
/-- xst.pool. -/
def execXstPool (_g : BitVec 4) (d a : BitVec 5) (n : BitVec 4) (p : Bool) (s : State) : Out :=
  dispatches false true d a n p s

/-! ## Beats and landing (R171, R172) -/

/-- The dispatch of a number. -/
def Core.dispatch? (c : Core) (no : Nat) : Option Dispatch := c.dispatches.find? (fun d => d.number == no)

/-- A dispatch changed. -/
def Core.modDispatch (c : Core) (no : Nat) (f : Dispatch → Dispatch) : Core :=
  { c with dispatches := c.dispatches.map (fun d => if d.number = no then f d else d) }

/-- A dispatch that has ended. -/
def Core.dropDispatch (c : Core) (no : Nat) : Core :=
  { c with dispatches := c.dispatches.filter (fun d => d.number != no) }

/-- Beat j of a store dispatch reads SP; poison travels with the data (R171, R310). -/
def performDispRead (w : WordRef) (no j : Nat) (s : State) : State :=
  match (s.coreAt w.id).dispatch? no with
  | none => s
  | some d =>
    let a := d.src + 1024 * j
    let n := min 1024 (d.n - 1024 * j)
    s.perform w [s.watchChk w .sp a n false] (fun s =>
      let bytes := s.readSpace w.id 0 .sp a n
      let poison := movedPoison a (1024 * j) (s.poisonLines w.id 0 .sp a n)
      let s := s.modCore w.id (fun c => c.modDispatch no (fun d =>
        { d with data := d.data ++ bytes, poison := d.poison ++ poison }))
      if 1024 * (j + 1) < d.n then s.sched (s.now + 1) phRead (.accessPerform (.dispRead w no (j + 1))) else s)

/-- The completion record of a dispatch (R172). -/
def State.postDispatch (s : State) (w : WordRef) (d : Dispatch) : State :=
  if d.post then
    s.post w.id.dev (s.ctxW w)
      (BitVec.ofNat 128 (d.n + (!d.load).toNat * 2 ^ 32 + d.failed.toNat * 2 ^ 33)) (if d.pool then 2 else 1)
      w.id.core d.number
  else s

/-- Beat j of a load dispatch lands in SP; at the landing phase of the count after the last beat the dispatch has ended, and its
record is posted (R171, R172; log 141). -/
def performDispWrite (w : WordRef) (no j : Nat) (s : State) : State :=
  match (s.coreAt w.id).dispatch? no with
  | none => s
  | some d =>
    s.perform w [] (fun s =>
      if 1024 * j < d.n ∧ !d.failed then
        let a := d.dst + 1024 * j
        let s := s.writeAt s.now w .sp a ((d.data.drop (1024 * j)).take 1024) []
        s.sched (s.now + 1) (if 1024 * (j + 1) < d.n then phRead else phLand) (.accessPerform (.dispWrite w no (j + 1)))
      else (s.postDispatch w d).modCore w.id (fun c => c.dropDispatch no))

/-- Nothing of a dispatch is left on the core but the access that is on its way to the completer (R234). -/
def Core.endDispatch (c : Core) (no : Nat) : Core := c.modDispatch no (fun d => { d with ended := true })

/-- The landing tick of a dispatch (R171, R172): late landing where it is not complete, dispatch error where it failed, else
its bytes land, or the store is done. A failed load posts its record when its last beat would have landed. DESIGN CHOICE: a
late landing is no failed dispatch, and posts no record (log 145). -/
def execDispatchLanding (w : WordRef) (no : Nat) (s : State) : Out :=
  .next (match (s.coreAt w.id).dispatch? no with
    | none => s
    | some d =>
      if !s.mine w || d.ended then s
      else if !d.done then (s.raise w.eng w true 0x0D 0).modCore w.id (fun c => c.endDispatch no)
      else if d.failed then
        let s := s.raise w.eng w true 0x17 0
        if d.load then s.sched (s.now + ceilDiv d.n 1024) phLand (.accessPerform (.dispWrite w no 0))
        else (s.postDispatch w d).modCore w.id (fun c => c.dropDispatch no)
      else if d.load then performDispWrite w no 0 s
      else (s.postDispatch w d).modCore w.id (fun c => c.dropDispatch no))

/-! ## Completions and fences (R231–R235) -/

/-- The itinerary stands suspended: its cores are kept in the run. -/
def Run.away (r : Run) : Bool := r.st == .suspended || r.st == .readmitted || r.st == .resuming

/-- A core of an itinerary stands on its physical core: the itinerary is not away, and no other one has taken the core. -/
def State.stands (s : State) (r : Nat) (id : CoreId) : Bool := !(s.run r).away && (s.coreAt id).run == some r

/-- A core of an itinerary, where it stands or as it was saved. -/
def State.coreOf (s : State) (r : Nat) (id : CoreId) : Core :=
  if s.stands r id then s.coreAt id else look Core.fresh id (s.run r).savedCores

/-- A core of an itinerary changed, where it stands or as it was saved (R173). -/
def State.modCoreOf (s : State) (r : Nat) (id : CoreId) (f : Core → Core) : State :=
  if s.stands r id then s.modCore id f
  else s.modRun r (fun x => { x with savedCores := x.savedCores.map (fun y => if y.1 = id then (y.1, f y.2) else y) })

/-- A core that another itinerary takes over: its dispatches end but for the accesses on their way (R69). -/
def Core.left (c : Core) : Core :=
  { c with dispatches := (c.dispatches.filter (fun d => !d.done)).map (fun d => { d with ended := true }) }

/-- A core is given to another itinerary: of one that has retired or halted the untimed accesses on their way stay so, and
perform at their completers (R69, R231). -/
def State.vacate (s : State) (id : CoreId) : State :=
  let c := (s.coreAt id).left
  match (s.coreAt id).run with
  | some r =>
    if !(s.run r).live && !(c.dispatches.isEmpty && c.strays.isEmpty) then
      s.modRun r (fun x => { x with savedCores := x.savedCores ++ [(id, c)] })
    else s
  | none => s

/-- A fence that is pending on the core holds an access of a class issued at a count (R234). -/
def Core.holds (c : Core) (scalar pool : Bool) (issued : Nat) : Bool :=
  c.fences.any (fun f => inClass f.cb scalar pool && decide (f.at' < issued))

/-- No count of the itinerary passes: it is being saved, or away. -/
def Run.paused (r : Run) : Bool := r.away || r.st == .saving

/-- The count a core stands at: the last count it ran where its itinerary is paused. -/
def State.standsAt (s : State) (r : Nat) : Nat := if (s.run r).paused then (s.run r).savedAt else s.now

/-- A completion raises: at once, or, where its itinerary is paused, at the next tick of it (R173). -/
def State.completionRaises (s : State) (r : Nat) (w : WordRef) (cause : Nat) (detail : BitVec 256) : State :=
  if (s.run r).paused then
    let p : Pend := ⟨(s.run r).savedAt + 1, phControl, 0, 0, 0, s.seq, w.id, .leasedResult w (.fault cause detail)⟩
    { s with kept := s.kept ++ [⟨r, p⟩], seq := s.seq + 1 }
  else s.raise w.eng w true cause detail

/-- A waypoint word of a core of an itinerary completes (R100). -/
def State.waypointDoneOf (s : State) (r : Nat) (id : CoreId) : State :=
  let t := s.standsAt r
  (s.modCoreOf r id (fun c => { c with
    wait := .none,
    sq := { c.sq with ready := t - c.base + 1 + Config.waypointGap s.free } })).drawn

/-- Fences of a core with nothing left before them are released; then a fence that waited is pending (R234, R235). DESIGN
CHOICE: its F is the count at which it first issued, and what scope cores issue while it waits is not before it (log 153). -/
def State.releaseFences (s : State) (r : Nat) (id : CoreId) : State :=
  let s := s.modCoreOf r id (fun c => { c with fences := c.fences.filter (fun f => f.before != some []) })
  match (s.coreOf r id).wait with
  | .fence f =>
    if (s.coreOf r id).fences.length < 4 then
      let n := (s.coreOf r id).fenceNo
      let s := s.modCoreOf r id (fun c => { c with fences := c.fences ++ [{ f with number := n }], fenceNo := n + 1 })
      (s.waypointDoneOf r id).sched s.now phEnd (.fenceRelease r id n)
    else s
  | _ => s

/-- A core as other itineraries have left it, each with its itinerary: accesses of theirs may be on their way (R231). -/
def State.elders (s : State) (r : Nat) (id : CoreId) : List (Nat × Core) :=
  (s.runs.filter (fun x => x.1 != r)).flatMap (fun x =>
    (x.2.savedCores.filter (fun y => y.1 == id)).map (fun y => (x.1, y.2)))

/-- The accesses of a class that a core has issued by a count and that have not performed, whatever itinerary it ran (R234). -/
def State.issuedBy (s : State) (r : Nat) (k : BitVec 3) (f : Nat) (id : CoreId) : List (Nat × CoreId × UntimedId) :=
  ((r, s.coreOf r id) :: s.elders r id).flatMap (fun x => (x.2.untimed id k f).map (fun y => (x.1, y)))

/-- What a fence waits for is gathered when its count has ended: every access of class ca issued by then by a core of
its scope (R234). -/
def execFenceRelease (run : Nat) (id : CoreId) (number : Nat) (s : State) : Out :=
  let gather (f : Fence) : Fence :=
    if f.number = number then
      { f with before := some ((((s.run run).scopes[f.scope]?).getD []).flatMap (s.issuedBy run f.ca f.at')) }
    else f
  .next ((s.modCoreOf run id (fun c => { c with fences := c.fences.map gather })).releaseFences run id)

/-- A core's fences forget an access of an itinerary. -/
def Core.forgets (c : Core) (r : Nat) (x : CoreId × UntimedId) : Core :=
  { c with fences := c.fences.map (fun f => { f with before := f.before.map (fun l => l.filter (fun y => y != (r, x))) }) }

/-- The fences of itineraries forget an access of an itinerary (R234). -/
def State.forgotten (s : State) (qs : List Nat) (r : Nat) (x : CoreId × UntimedId) : State :=
  qs.foldl (fun s q => (coresOf (s.run q)).foldl (fun s id =>
    (s.modCoreOf q id (fun c => c.forgets r x)).releaseFences q id) s) s

/-- An untimed access of an itinerary has performed or failed: every fence of the group forgets it, one that still holds a
dispatch of an itinerary that has retired among them (R69, R234). -/
def State.performed (s : State) (r : Nat) (x : CoreId × UntimedId) : State := s.forgotten (s.runs.map (·.1)) r x

/-- A scalar access performs at the host: a load reads its bytes there, a store writes them. -/
def State.scalarPerforms (s : State) (r : Nat) (id : CoreId) (addr size : Nat) (dst : Option LoadDst) (v : Reg) : State :=
  let ctx := (s.run r).ctx
  let x := leNat (readBytes (s.far false ctx) addr size)
  match dst with
  | some (.sReg k) => s.modCoreOf r id (fun c => c.wsSlot k (BitVec.ofNat 64 x))
  | some (.pReg i) => s.modCoreOf r id (fun c => c.wp i (x != 0))
  | none => s.writeFar false ctx addr (leBytes size v.toNat)

/-- An SQ access left on its way that was issued before another one and overlaps it has not performed (R232). -/
def Core.strayBefore (c : Core) (issued addr size : Nat) : Bool :=
  c.strays.any (fun x => decide (x.issued < issued) && framesMeet x.addr x.size addr size)

/-- What other itineraries of the context have left on its way from a core (R232; log 96). -/
def State.kin (s : State) (r : Nat) (id : CoreId) : List Core :=
  ((s.elders r id).filter (fun x => (s.run x.1).ctx == (s.run r).ctx)).map (·.2)

/-- An SQ access waits for an earlier one of its core, whatever itinerary of the context that was of (R232). -/
def State.strayWaits (s : State) (r : Nat) (id : CoreId) (issued addr size : Nat) : Bool :=
  (s.coreOf r id :: s.kin r id).any (fun c => c.strayBefore issued addr size)

/-- An SQ access that an unwind or a halt left on its way performs at the host. DEDUCED: nothing of the core hears of it, and
its failure or a watchpoint on it raises nothing (log 130). -/
def State.strayPerforms (s : State) (r : Nat) (id : CoreId) (issued : Nat) (ok : Bool) : State :=
  let c := s.coreOf r id
  match c.strays.find? (fun x => x.issued == issued) with
  | none => s
  | some x =>
    if s.strayWaits r id x.issued x.addr x.size then s
    else
      let s := if ok && !x.load then s.writeFar false (s.run r).ctx x.addr (leBytes x.size x.v.toNat) else s
      (s.modCoreOf r id (fun c => { c with strays := c.strays.filter (fun y => y.issued != issued) })).performed r
        (id, .scalar issued)

/-- The completion of a scalar access in HOST: its effect, or the host-access fault or a watchpoint at the word (R102,
R323). DESIGN CHOICE: an access that is outstanding when its core misses a departure keeps its wait, and a completion before
the stop performs and writes s[d] (log 136). -/
def State.scalarCompletes (s : State) (r : Nat) (id : CoreId) (at' : Nat) (ok : Bool) : State :=
  match (s.coreOf r id).wait with
  | .host w addr size dst v issued =>
    if issued ≠ at' then s.strayPerforms r id at' ok
    else if (s.coreOf r id).holds true false issued || s.strayWaits r id issued addr size then s
    else match firstFault [chk (!ok) 0x5A 0, s.watchOf (s.coreOf r id) w .host addr size dst.isNone] with
    | some (cause, detail) =>
      ((s.performed r (id, .scalar at')).modCoreOf r id (fun c => { c with wait := .none })).completionRaises r w cause detail
    | none => ((s.performed r (id, .scalar at')).scalarPerforms r id addr size dst v).waypointDoneOf r id
  | _ => s.strayPerforms r id at' ok

/-- A chunk of a store that carries poison is signalled to the completer as poisoned data (R310). -/
def State.indicates (s : State) (d : Dispatch) (ctx k : Nat) : State :=
  if d.poison.contains k then { s with indications := s.indications ++ [(d.pool, ctx, d.dst / 64 + k)] } else s

/-- One aligned 64-byte chunk of a dispatch performs at the completer (R231, R232). -/
def State.chunkPerforms (s : State) (r : Nat) (id : CoreId) (no k : Nat) : State :=
  match (s.coreOf r id).dispatch? no with
  | none => s
  | some d =>
    if d.chunks.contains k then s
    else
      let ctx := (s.run r).ctx
      let a := d.at' + 64 * k
      let got := readBytes (s.far d.pool ctx) a 64
      let s := if d.load then s
        else (s.writeFar d.pool ctx a ((d.data.drop (64 * k)).take 64)).indicates d ctx k
      s.modCoreOf r id (fun c => c.modDispatch no (fun d =>
        { d with chunks := k :: d.chunks,
                 data := if d.load then d.data.take (64 * k) ++ got ++ d.data.drop (64 * k + 64) else d.data }))

/-- A dispatch of the class of d that was issued before it and overlaps it has not performed (R232). -/
def Core.dispatchBefore (c : Core) (d : Dispatch) : Bool :=
  c.dispatches.any (fun e => e.pool == d.pool && decide (e.issued < d.issued) && !e.done && framesMeet e.at' e.n d.at' d.n)

/-- A dispatch waits: a fence holds it (R234), or an earlier dispatch of its core and class whose bytes it overlaps has not
performed, whatever itinerary of the context that was of (R232). -/
def State.dispatchWaits (s : State) (r : Nat) (id : CoreId) (d : Dispatch) : Bool :=
  (s.coreOf r id).holds false d.pool d.issued || (s.coreOf r id :: s.kin r id).any (fun c => c.dispatchBefore d)

/-- The device has the bytes of the first n chunks of a dispatch: a store must have read them. -/
def Dispatch.has (d : Dispatch) (n : Nat) : Bool := d.load || decide (64 * n ≤ d.data.length)

/-- A watchpoint on the access of a dispatch, of an itinerary that can still halt. -/
def State.dispatchWatch (s : State) (r : Nat) (id : CoreId) (d : Dispatch) : Check :=
  if !(s.run r).live then none else s.watchOf (s.coreOf r id) d.word (if d.pool then .pool else .host) d.at' d.n (!d.load)

/-- A chunk of a dispatch reaches its completer before the others (R232). -/
def State.chunkCompletes (s : State) (r : Nat) (id : CoreId) (no k : Nat) : State :=
  match (s.coreOf r id).dispatch? no with
  | none => s
  | some d =>
    if d.done || s.dispatchWaits r id d || decide (d.n ≤ 64 * k) || !d.has (k + 1) || (s.dispatchWatch r id d).isSome
    then s
    else s.chunkPerforms r id no k

/-- The completion of a dispatch: what has not performed of it performs or fails, a load has its bytes, a store is
acknowledged, and a watchpoint is raised (R171, R173, R323). Of one that has ended on its core as much performs as was sent,
and it is gone (log 130). -/
def State.dispatchCompletes (s : State) (r : Nat) (id : CoreId) (no : Nat) (ok : Bool) : State :=
  match (s.coreOf r id).dispatch? no with
  | none => s
  | some d =>
    let chunks := (List.range (d.n / 64)).filter (fun k => ok && d.has (k + 1))
    let perform (s : State) : State := chunks.foldl (fun s k => s.chunkPerforms r id no k) s
    if d.done || s.dispatchWaits r id d then s
    else if d.ended then ((perform s).modCoreOf r id (fun c => c.dropDispatch no)).performed r (id, .dispatch no)
    else if ok && !d.has (d.n / 64) then s
    else match s.dispatchWatch r id d with
    | some (cause, detail) => (s.performed r (id, .dispatch no)).completionRaises r d.word cause detail
    | none =>
      ((perform s).modCoreOf r id (fun c => c.modDispatch no (fun d => { d with done := true, failed := !ok }))).performed r
        (id, .dispatch no)

/-- The space of an untimed access of a core is POOL. -/
def Core.accessPool (c : Core) : UntimedId → Bool
  | .scalar _ => false
  | .dispatch no | .chunk no _ => ((c.dispatch? no).map (·.pool)).getD false

/-- An untimed access, or a chunk of one, reaches its completer (R102, R171, R231, R232): `outside` is what others have
written there by then. One that a fence still holds has not been brought to its completer, so no completion of it arrives
(log 8). What is on its way when its itinerary retires or halts still performs there, and nothing of the core hears of it
(R69, R231, R308; log 130). -/
def execUntimedCompletion (run : Nat) (id : CoreId) (what : UntimedId) (ok : Bool) (outside : List (Nat × Byte)) (s : State) :
    Out :=
  let s := s.outsideFar ((s.coreOf run id).accessPool what) (s.run run).ctx outside
  .next (match what with
    | .scalar issued => s.scalarCompletes run id issued ok
    | .chunk no k => if ok then s.chunkCompletes run id no k else s
    | .dispatch no => s.dispatchCompletes run id no ok)

end Sys2Proof.Machine
end

