-- ==== Sys2Proof/Machine/Departures.lean ====
section
/-! DEFINITION. What an itinerary does between its service and its end: departures (R58–R61, R65, R81), yield points and
quiescence (R75), ends and retirement (R66, R83), pre-emption, save and resume (R80, R82, R173, R278). -/

namespace Sys2Proof.Machine

/-! ## First departure (R60, R61, R65) -/

/-- Image of the record's leg table on a device. -/
def State.imageOf (s : State) (d : Nat) (r : Run) : ItinImage :=
  ((s.ctx d r.ctx).images.find? (fun x => x.legt == field r.record 448 64)).getD default

/-- What stays with the physical core when another itinerary departs on it (log 5). -/
def Core.keeping (c old : Core) : Core :=
  { c with shadows := old.shadows, before := (c.counters, old.shadows), watches := old.watches, buckets := old.buckets }

/-- SP and LOFT of a core as the images lay them down (R61). -/
def Core.laid (c : Core) (n : Nat) (xs : List DataImage) : Core :=
  xs.foldl (fun c x =>
    if x.core = n then match x.space with
      | .sp => { c with sp := writeBytes c.sp x.addr x.bytes }
      | .loft => { c with loft := writeBytes c.loft x.addr x.bytes }
      | _ => c
    else c) c

/-- A core at first departure. -/
def departed (old : Core) (r : Nat) (x : Run) (member n : Nat) (data : List DataImage) : Core :=
  ((({ Core.fresh with run := some r, member := member }.keeping old).ws 1 (BitVec.ofNat 64 (field x.record 64 64))).laid
    n data)

/-- A table of the image as cores: its entries name members of the itinerary (R86). -/
def tableOf (members : List (Nat × Nat)) (t : List (List (Nat × Nat))) : List (List CoreId) :=
  t.map (fun e => e.filterMap (fun x => members[x.1]?.map (fun m => ⟨m.1, m.2, x.2⟩)))

/-- The herd table of a record as loaded on a device. -/
def State.herdTable (s : State) (d : Nat) (c : Nat) (record : BitVec 512) : List (List (Nat × Nat)) :=
  (((s.ctx d c).images.find? (fun x => x.herdsAt == field record 192 64)).map (·.herds)).getD []

/-- The scope table of a record as loaded on a device. -/
def State.scopeTable (s : State) (d : Nat) (c : Nat) (record : BitVec 512) : List (List (Nat × Nat)) :=
  (((s.ctx d c).images.find? (fun x => x.scopesAt == field record 128 64)).map (·.scopes)).getD []

/-- The size of the launch parameter block (R29). -/
def paramsSize : Nat := 4096

/-- The bytes of a launch parameter block on a device, by virtual address, as they stand (R29). -/
def State.paramsOf (s : State) (d c a : Nat) : Memory :=
  let pages := (s.ctx d c).pages.filter (fun p => p.seen ≤ s.now && framesMeet p.va p.size a paramsSize)
  let cells := pages.flatMap (fun p => ((s.dev d).hbm.map (fun x => (x.1 + p.va - p.frame, x))).filterMap (fun x =>
    if p.frame ≤ x.2.1 && x.2.1 < p.frame + p.size && a ≤ x.1 && x.1 < a + paramsSize then some (x.1, x.2.2) else none))
  cells.foldl (fun m x => writeByte m x.1 x.2) []

/-- The launch parameter block of a member stands again as it stood when the record arrived: first departure sees it so
(R29; log 103). -/
def State.restoreParams (s : State) (d c a : Nat) (m : Memory) : State :=
  let here := s.paramsOf d c a
  if here = m then s
  else
    let s := here.foldl (fun s x => s.writeHbm d c x.1 [0]) s
    m.foldl (fun s x => s.writeHbm d c x.1 [x.2]) s

/-- One member departs: its parameter block, its cores, its context's registers of the program view, its pace window. The
event queue holds no record at first departure (R112). -/
def State.departMember (s : State) (run : Nat) (m : Nat × Nat) : State :=
  let x := s.run run
  let im := s.imageOf m.1 x
  let k := memberNo x m.1
  let s := ((x.params[k]?).map (s.restoreParams m.1 x.ctx (field x.record 64 64))).getD s
  let s := (coresOn x m).foldl (fun s id =>
    (s.vacate id).setCore id (departed { s.coreAt id with shadows := s.shadowsOf id } run x k id.core im.data)) s
  let s := s.modCtx m.1 x.ctx (fun y =>
    { y with evq := [], evqLost := 0, lossPending := false, evqMsix := false, dbellNo := 0, forwarded := none, readmit := false,
             control := x.control && im.signed })
  s.restartPace m.1

/-- The departure count of a leg: B + O, as the leg record stood when the previous count ended (R58, R59, R225). -/
def State.legCount (s : State) (run leg : Nat) : Nat :=
  let x := s.run run
  match coresOf x with
  | [] => x.base
  | id :: _ =>
    let n := (coresOn x (id.dev, id.part)).length
    x.base + nfield (leNat ((s.asLeft id.dev).readHbm id.dev x.ctx (field x.record 448 64 + 64 * (leg * n + id.core)) 64)) 128 64

/-- LEGS of a record. -/
def Run.legs (r : Run) : Nat := field r.record 256 8

/-- An itinerary departs on every member at D (R65). -/
def execDeparture (run : Nat) (s : State) : Out :=
  .next (if (s.run run).st != .departing then s
    else
      let x := s.run run
      let d := (x.members.head?.map (·.1)).getD x.home
      let s := s.modRun run (fun x => { x with
        st := .running, base := s.now,
        herds := tableOf x.members (s.herdTable d x.ctx x.record),
        scopes := tableOf x.members (s.scopeTable d x.ctx x.record) })
      let s := x.members.foldl (fun s m => s.departMember run m) s
      let s := s.modCtx x.home x.ctx (fun y => { y with readmit := false })
      s.sched (s.legCount run 0) phControl (.legDeparture run 0))

/-! ## Legs (R59, R78, R81) -/

/-- A core starts a leg: leg tick 0 is this count. -/
def Core.startLeg (c : Core) (leg sqt now : Nat) : Core :=
  { c with leg := leg, base := now, waypoint := false, yielded := none, yieldDue := none, reached := false,
           wait := .none,
           sq := startStream sqt 0,
           vx := .idle, mx := .idle, ax := .idle }

/-- A fault of a core's SQ that no word raises. -/
def Core.noWord (c : Core) (id : CoreId) (e : Engine) (now : Nat) : WordRef :=
  { id := id, run := c.run.getD 0, eng := e, leg := c.leg, issue := now - c.base, nominal := now - c.base,
    wp := e == .sq && c.waypoint }

/-- A core raises missed departure, and stays stopped until the halt: SQ by its fault, and with it every stream of the leg
before that still runs, since R81 stops the core and bids every other one keep its timetable (log 135). -/
def State.missesDeparture (s : State) (id : CoreId) : State :=
  (s.raise .sq ((s.coreAt id).noWord id .sq s.now) false 0x0B 0).modCore id Core.stopped

/-- A leg departs on a core, or the core has missed the departure (R81). -/
def State.departCore (s : State) (run leg : Nat) (id : CoreId) : State :=
  let c := s.coreAt id
  if c.run != some run then s
  else if leg != 0 && !c.reached then s.missesDeparture id
  else
    let s := s.modCore id (fun c => { c with leg := leg })
    s.modCore id (fun c => c.startLeg leg (s.legAddr id (legField .sq)) s.now)

/-- The yield list of a run's leg. -/
def State.runYields (s : State) (run leg : Nat) : List Nat :=
  match coresOf (s.run run) with
  | [] => []
  | id :: _ => s.yieldList id leg

/-- A leg departs (R81): the next departure or the last deadline, the overrun and the listed yield ticks are due. -/
def execLegDeparture (run leg : Nat) (s : State) : Out :=
  .next (if !(s.run run).issues s.now then s
    else
      let s := (coresOf (s.run run)).foldl (fun s id => s.departCore run leg id) s
      let s := s.modRun run (fun x => { x with leg := leg })
      let s := s.sched (s.now + 2 ^ 22) phControl (.legOverrun run leg)
      let s := (s.runYields run leg).foldl (fun s y => s.sched (s.now + y) phControl (.yieldListTick run leg y)) s
      if leg + 1 < (s.run run).legs then s.sched (s.legCount run (leg + 1)) phControl (.legDeparture run (leg + 1))
      else s.sched (s.now + 2 ^ 24) phControl (.lastLegDeadline run leg))

/-- The cores of an itinerary that stand in a leg of it. -/
def State.inLeg (s : State) (run leg : Nat) : List CoreId :=
  (coresOf (s.run run)).filter (fun id => (s.coreAt id).run == some run && (s.coreAt id).leg == leg)

/-- A stream has issued no END: it runs, or a fault has stopped it (R79). -/
def Stream.unended (st : Stream) : Bool := st.st == .running || st.st == .stopped

/-- The first stream of a core whose timed code has not ended. -/
def Core.timedEngine (c : Core) : Option Engine :=
  engines.find? (fun e => (c.stream e).unended && (e != .sq || !c.waypoint))

/-- LEG_TICK reaches 2^22 while a stream of the leg has not ended (R78). DEDUCED: a core raises leg overrun once, under the
first of its streams that has not ended in the order of R83; its other streams raise none (log 104). -/
def execLegOverrun (run leg : Nat) (s : State) : Out :=
  .next (if !(s.run run).issues s.now then s
    else (s.inLeg run leg).foldl (fun s id =>
      let c := s.coreAt id
      match c.timedEngine with
      | none => s
      | some e => s.raise e (c.noWord id e s.now) false 0x0E 0) s)

/-- The last leg's departure plus 2^24: a core whose waypoint has not reached END raises missed departure (R81). An END that
issues at that count has not been reached (log 15). -/
def execLastLegDeadline (run leg : Nat) (s : State) : Out :=
  .next (if !(s.run run).issues s.now then s
    else (s.inLeg run leg).foldl (fun s id =>
      let c := s.coreAt id
      if c.reached then s else s.missesDeparture id) s)

/-! ## Yield points (R75, R83) -/

/-- A core is quiescent at the end of a count (R75). -/
def Core.quiescent (c : Core) (now : Nat) : Bool :=
  c.leases.all (fun l => decide (l.till ≤ now + 1)) && c.q.toList.all (·.isEmpty) && c.o.toList.all (·.isEmpty) &&
    decide (c.accessesTill ≤ now) && decide (c.unlandedTill ≤ now)

/-- What a core raises as a listed tick ends (R75): yield fault where it has yielded and is not quiescent, or where no timed
word of SQ has issued. A word that issued there and is no yield has raised its own. -/
def State.yieldChecked (s : State) (tick : Nat) (id : CoreId) : State :=
  let c := s.coreAt id
  let issued := c.sq.issued == some s.now && !c.waypoint
  let s := s.modCore id (fun c => { c with yieldDue := none })
  if c.yielded == some tick then
    (if c.quiescent s.now then s else s.raise .sq (c.noWord id .sq s.now) true 0x09 0)
  else if issued then s
  else s.raise .sq (c.noWord id .sq s.now) false 0x09 0

/-- A listed tick (R75): as it begins, its cores are told that only a yield may issue there; as it ends, they are checked. -/
def execYieldListTick (run leg tick : Nat) (s : State) : Out :=
  let ids := s.inLeg run leg
  .next (if !(s.run run).issues s.now then s
    else if ids.any (fun id => (s.coreAt id).yieldDue == some tick) then
      ids.foldl (fun s id => s.yieldChecked tick id) s
    else (s.modCores ids (fun c => { c with yieldDue := some tick })).sched s.now phEnd (.yieldListTick run leg tick))

/-- A word of the core that issued at this count has faulted at it (R83). -/
def State.faultedNow (s : State) (run : Nat) (id : CoreId) : Bool :=
  let c := s.coreAt id
  (s.run run).faults.any (fun f => f.t == s.now && f.ofWord && f.word.id == id && f.word.leg == c.leg &&
    f.word.issue + c.base == s.now)

/-- No halt of the itinerary has begun, and no unwind is on its way (R85, R311). -/
def Run.unhalted (r : Run) (now : Nat) : Bool :=
  (r.halt.map (fun h => decide (now < h.1))).getD true && r.unwinds.all (fun u => decide (u.t + 8192 < now))

/-! ## Suspension (R80, R82, R173) -/

/-- A pending effect that belongs to an itinerary and keeps its leg tick. -/
def Instr.keepsTick (i : Instr) (run : Nat) : Bool :=
  (Instr.source i).any (fun w => w.run == run) || Instr.runKey i == some run

/-- A check for a yield point. -/
def isYieldPoint : Instr → Bool
  | .leasedResult _ .yieldPoint => true
  | _ => false

/-- A core at a yield point: its latches are empty, and its queues hold no entry that has landed (R165, R179). -/
def Core.emptied (c : Core) (now : Nat) : Core :=
  let toCome (l : List QEnt) : List QEnt := l.filter (fun e => decide (now < e.ready))
  { c with latches := Vector.replicate 3 tileZero, q := c.q.map toCome, o := c.o.map toCome }

/-- A core as it is saved: an evwait that waits issues again on resume (R110); queues and latches are empty (R82). -/
def Core.paused (c : Core) (now : Nat) : Core :=
  let c := c.emptied now
  if c.wait = .event then { c with wait := .none, sq := { c.sq with pc := c.sq.pc - 4, ready := now - c.base + 1 } }
  else c

/-- While an itinerary is suspended no count of it passes: what its commands pin stays pinned (R80, R106). -/
def suspendedTill : Nat := 2 ^ 80

/-- Releases of pins at or before a count have taken place; the others wait for the resume. -/
def lapsingSuspended (now : Nat) (l : List Nat) : List Nat := (l.filter (fun t => now < t)).map (· + suspendedTill)

/-- Releases that waited, moved by n counts with their leg. -/
def lapsingResumed (n : Nat) (l : List Nat) : List Nat :=
  l.map (fun t => if suspendedTill ≤ t then t - suspendedTill + n else t)

/-- Every core of an itinerary suspends after this count, and the context is saved (R80). What is in flight keeps its
leg tick. -/
def State.suspend (s : State) (run : Nat) : State :=
  let mine (p : Pend) : Bool := Instr.keepsTick p.act run
  let kept := (s.agenda.filter (fun p => mine p && !isYieldPoint p.act)).map (fun p => (⟨run, p⟩ : Kept))
  let s := { s with agenda := s.agenda.filter (fun p => !mine p), kept := s.kept ++ kept }
  let s := s.modCores (coresOf (s.run run)) (fun c => c.paused s.now)
  let s := (s.run run).members.foldl (fun s m => s.lapsingOf m.1 (s.run run).ctx (lapsingSuspended s.now)) s
  let s := s.modRun run (fun x => { x with st := .saving, savedAt := s.now })
  let s := s.modCtx (s.run run).home (s.run run).ctx (fun y => { y with pending := none })
  (s.sched (s.now + 1 + Config.saveTicks s.free) phLand (.contextSaveDone run)).drawn

/-- A pre-emption request of the context of an itinerary is pending at this count (R80). -/
def State.preempted (s : State) (x : Run) : Bool :=
  ((s.ctx x.home x.ctx).pending.map (fun c => decide (c ≤ s.now))).getD false

/-- A yield point of a word (R75, R80, R165, R179): queues and latches are emptied, and a request that is pending is taken where
neither the core has faulted at this count nor a halt or an unwind of its itinerary has begun. -/
def State.yieldsAt (s : State) (w : WordRef) : State :=
  let x := s.run w.run
  if !(s.mine w && x.st == .running) then s
  else
    let s := s.modCore w.id (fun c => c.emptied s.now)
    if s.preempted x && !s.faultedNow w.run w.id && x.unhalted s.now then s.suspend w.run else s

/-- At count C a request of a context is pending: a core of its itinerary that waits in evwait stands at a yield point (R80,
R110). -/
def execPreemptPending (c : CtxId) (s : State) : Out :=
  let ids := (s.runs.filter (fun x => x.2.st == .running && x.2.ctx == c.ctx && x.2.home == c.dev)).flatMap (fun x => coresOf x.2)
  .next (ids.foldl (fun s id =>
    let y := s.coreAt id
    if y.wait = .event then s.sched s.now phLast (.leasedResult (y.noWord id .sq s.now) .yieldPoint) else s) s)

/-- Every member's device posts a class-0 record of an itinerary (R278, R308; log 22). -/
def State.postMembers (s : State) (run status cause : Nat) : State :=
  let x := s.run run
  x.members.foldl (fun s m => s.postClass0 m.1 x.ctx (field x.record 264 24) status cause) s

/-- The partitions of an itinerary are free, and the drovers serve. -/
def State.freeParts (s : State) (run : Nat) : State :=
  let x := s.run run
  let s := x.members.foldl (fun s m => (s.setPart m.1 m.2 ⟨none, false⟩).serveSoon m.1) s
  s.serveSoon x.home

/-- The save completes: the cores are kept, the partitions free, and a record with STATUS 4 is posted (R278). DESIGN CHOICE:
what is saved stands in the itinerary, and no byte of HBM is written for it (log 105). -/
def execContextSaveDone (run : Nat) (s : State) : Out :=
  .next (if (s.run run).st != .saving then s
    else
      let ids := coresOf (s.run run)
      let s := s.modRun run (fun x => { x with st := .suspended, savedCores := ids.map (fun id => (id, s.coreAt id)) })
      let s := s.modCores ids (fun c => Core.fresh.keeping c)
      let x := s.run run
      let s := s.modCtx x.home x.ctx (fun y => { y with heldAt := s.now })
      (s.postMembers run 4 0).freeParts run)

/-! ## Resume (R80, R82, R173) -/

/-- A core moved by n counts with its leg: everything it names by a count still to come. -/
def Core.rebased (c : Core) (n : Nat) : Core :=
  { c with
    base := c.base + n,
    ports := c.ports.map (fun x => (x.1, x.2 + n)),
    captures := c.captures.map (fun x => (x.1, x.2 + n)),
    pis := c.pis.map (· + n),
    bankWrites := c.bankWrites.map (fun x => (x.1, x.2 + n)),
    arrayFree := c.arrayFree + n, loftFree := c.loftFree + n, controlFree := c.controlFree + n,
    leases := c.leases.map (fun l => { l with till := l.till + n }),
    accessesTill := c.accessesTill + n, unlandedTill := c.unlandedTill + n,
    q := c.q.map (fun l => l.map (fun e => { e with ready := e.ready + n })),
    o := c.o.map (fun l => l.map (fun e => { e with ready := e.ready + n })),
    dispatches := c.dispatches.map (fun d => { d with due := d.due + n }) }

/-- A saved core stands on its physical core again. -/
def State.restore (s : State) (id : CoreId) (c : Core) (n : Nat) : State :=
  (s.vacate id).setCore id ((c.rebased n).keeping (s.coreAt id))

/-- A readmitted itinerary resumes: the tick after its last one falls at this count (R80). DEDUCED: B and every count still to
come move by the counts that passed, in a waypoint as in timed code, so that the distance to the waypoint's next departure
is what it was (log 106). A mapping request that waits for its commands is looked into again (R52). -/
def execResume (run : Nat) (s : State) : Out :=
  .next (if (s.run run).st != .resuming then s
    else
      let x := s.run run
      let n := s.now - (x.savedAt + 1)
      let s := x.savedCores.foldl (fun s y => s.restore y.1 y.2 n) s
      let back := s.kept.filter (fun k => k.run == run)
      let s := { s with kept := s.kept.filter (fun k => k.run != run),
                        agenda := back.foldl (fun l (k : Kept) => insertPend { k.pend with at' := k.pend.at' + n } l) s.agenda }
      let s := s.modRun run (fun x => { x with st := .running, base := x.base + n, savedCores := [] })
      let s := s.modCtx x.home x.ctx (fun y => { y with readmit := false })
      let s := x.members.foldl (fun s m =>
        (((s.modCtx m.1 x.ctx (fun y => { y with readmit := false })).lapsingOf m.1 x.ctx (lapsingResumed n)).restartPace
          m.1).schedDev s.now phEnd m.1 .scan) s
      s.postMembers run 5 0)

/-! ## Retirement (R66, R83) -/

/-- The itinerary retires: handles unbound, partitions freed, records posted; a request that is pending is taken here, before
the context's next itinerary departs, and one whose count has not come stays with the context (R66, R80, R83). -/
def State.retire (s : State) (run : Nat) : State :=
  let x := s.run run
  let s := (coresOf x).foldl State.unbindAll s
  let s := s.modRun run (fun x => { x with st := .retired })
  let s := s.postMembers run 0 0
  let s := if s.preempted x then
      s.modCtx x.home x.ctx (fun y => { y with pending := none, suspHeld := true, heldAt := s.now })
    else s
  s.freeParts run

/-- The END of a leg of a core counts, unless the core has faulted at this count (R83); with the last one of the last
leg the itinerary retires, unless a halt has begun. -/
def State.ends (s : State) (w : WordRef) : State :=
  if !(s.mine w && (s.run w.run).st == .running) || s.faultedNow w.run w.id then s
  else
    let s := s.modCore w.id (fun c => { c with reached := true })
    let x := s.run w.run
    if w.leg + 1 == x.legs && (coresOf x).all (fun id => (s.coreAt id).reached && (s.coreAt id).leg == w.leg) &&
        x.unhalted s.now then s.retire w.run
    else s

end Sys2Proof.Machine
end

