-- ==== Sys2Proof/Machine/Drover.lean ====
section
/-! DEFINITION. The drover: launch records (R60, R62, R277, R280), class queues and service (R63–R65), pre-emption and
readmission requests (R278), doorbells (R279), and the host's writes of windows and registers (R277, R327). -/

namespace Sys2Proof.Machine

/-! ## Launch records -/

/-- A range of a record is mapped in the context. -/
def State.readable (s : State) (d c a n : Nat) : Bool := (s.pagesOf d c a n).isSome

/-- Members of a record: its own device and partition, or the entries of the member table (R280). -/
def recordMembers (dev : Nat) (x : Ctx) (rec : BitVec 512) : List (Nat × Nat) :=
  if field rec 46 8 = 0 then [(dev, field rec 54 4)]
  else (List.range (field rec 46 8 + 1)).map (fun m =>
    let e := look 0 m x.members
    (field e 0 8, field e 8 4))

/-- The shape of a partition on a device is that of a record. A device whose working cores fill no set of R4 presents no
partition (R318, log 66). -/
def State.shapeFits (s : State) (rec : BitVec 512) (m : Nat × Nat) : Bool :=
  let sh := shapeCode (field rec 44 2)
  sh.isSome && decide (128 ≤ (s.dev m.1).working) && shapeOf (s.dev m.1).partset.toNat m.2 == sh

/-- The entries of the member table that a record reads obey R280. -/
def State.tableOk (s : State) (dev ctx : Nat) (rec : BitVec 512) : Bool :=
  let x := s.ctx dev ctx
  let n := field rec 46 8 + 1
  let ms := recordMembers dev x rec
  (List.range n).all (fun m => field (look 0 m x.members) 12 4 == 0) &&
    ms.all (fun m => decide (m.1 < s.size) && s.shapeFits rec m) &&
    ms.all (fun m => (ms.filter (fun k => k.1 == m.1)).length == 1)

/-- A core of a herd table stands in at most four entries, and every member named exists (R62, R86). -/
def herdsOk (members : Nat) (t : List (List (Nat × Nat))) : Bool :=
  t.all (fun e => e.all (fun x =>
    decide (x.1 < members) && decide ((t.filter (fun e => e.contains x)).length ≤ 4)))

/-- The status of a launch record: the lowest among those that apply, 0 where none does (R62, R330). DESIGN CHOICE: LEGT is
readable where every leg record is, and HERDS, SCOPES and PARAMS where their first byte is (log 122); where DEVS is nonzero,
SHAPE is held against the members' partition sets for status 7, and not for status 2 (log 123). -/
def State.launchStatus (s : State) (dev ctx : Nat) (rec : BitVec 512) : Nat :=
  let devs := field rec 46 8
  let cores := ((shapeCode (field rec 44 2)).map shapeCores).getD 0
  if !(s.dev dev).bootst.getLsbD 5 then 2
  else if field rec 0 44 != 0 || field rec 44 2 == 3 || field rec 264 24 == 0 || field rec 256 8 == 0 ||
      (devs != 0 && field rec 54 4 != 0) then 1
  else if field rec 60 4 != ctx || (devs == 0 && !s.shapeFits rec (dev, field rec 54 4)) then 2
  else if 16 ≤ (vget [] (s.ctx dev ctx).queues (field rec 58 2)).length then 3
  else if !(s.readable dev ctx (field rec 448 64) (64 * field rec 256 8 * cores) && s.readable dev ctx (field rec 192 64) 1 &&
      s.readable dev ctx (field rec 128 64) 1 && s.readable dev ctx (field rec 64 64) 1) then 4
  else if !herdsOk (devs + 1) (s.herdTable dev ctx rec) then 5
  else if devs != 0 && (dev != 0 || s.size < devs + 1) then 6
  else if devs != 0 && !s.tableOk dev ctx rec then 7
  else 0

/-- A queue entry of a context changed. -/
def State.modQueue (s : State) (d c k : Nat) (f : List Queued → List Queued) : State :=
  s.modCtx d c (fun x => { x with queues := vset x.queues k (f (vget [] x.queues k)) })

/-- The longest wait in a class (R64). -/
def agingLimit : Nat := 2 ^ 24

/-- The aging of an entry that waits from a count on is looked into when its wait exceeds the limit. -/
def State.agesFrom (s : State) (d since : Nat) : State := s.schedDev (since + agingLimit + 1) phLand d .queueAging

/-- An accepted record is queued and forwarded to its members (R62, R280), with the parameter block of each as it stands
(R29). -/
def State.queueRecord (s : State) (dev ctx : Nat) (rec : BitVec 512) (control : Bool) : State :=
  let ms := recordMembers dev (s.ctx dev ctx) rec
  let s := s.modQueue dev ctx (field rec 58 2) (fun q => q ++ [⟨rec, ms, s.now, s.now, control,
    ms.map (fun m => s.paramsOf m.1 ctx (field rec 64 64))⟩])
  let s := (ms.filter (fun m => m.1 != dev)).foldl (fun s m =>
    s.schedDev (s.now + s.controlLatency dev m.1) phLand m.1 (.launchForward m.1 ctx rec ms)) s
  (s.agesFrom dev s.now).serveSoon dev

/-- A window is written through a function that its context is not bound to: an Unsupported Request (R277; log 85). -/
def State.throughFn (s : State) (dev ctx fn : Nat) (eff : State → State) : State :=
  if fn != Config.functionOf dev ctx then s.modDev dev (fun d => { d with unsupported := d.unsupported + 1 }) else eff s

/-- n bytes are written into the record of a context's window through a function: a write that covers its last byte completes
the record, which arrives as its bytes stand then (R62, R277). -/
def State.recordWrite (s : State) (dev ctx fn byte n v : Nat) : State :=
  let rec' := setBits (s.ctx dev ctx).record (8 * byte) (8 * n) v
  let s := s.modCtx dev ctx (fun x => { x with record := rec' })
  if byte ≤ 0x3F ∧ 0x3F < byte + n then
    let st := s.launchStatus dev ctx rec'
    let s := s.modCtx dev ctx (fun x => { x with status := BitVec.ofNat 64 st })
    if st = 0 then s.queueRecord dev ctx rec' (fn == 0) else s
  else s

/-- A launch record is written whole into a context's window through a function of the host port (R62, R277). -/
def execLaunchRecord (dev ctx fn : Nat) (rec : BitVec 512) (s : State) : Out :=
  .next (s.throughFn dev ctx fn (fun s => s.recordWrite dev ctx fn 0 64 rec.toNat))

/-- A member receives the record and the entries that the leader read (R280). -/
def execLaunchForward (dev ctx : Nat) (rec : BitVec 512) (members : List (Nat × Nat)) (s : State) : Out :=
  .next (s.modCtx dev ctx (fun x => { x with forwarded := some (rec, members) }))

/-! ## Service (R63, R65) -/

/-- Partitions are free. -/
def State.partsFree (s : State) (ms : List (Nat × Nat)) : Bool :=
  ms.all (fun m => (s.partOf m.1 m.2).run.isNone && !(s.partOf m.1 m.2).halted)

/-- PRED of a record: the ids of its nonempty slots. -/
def predsOf (rec : BitVec 512) : List Nat := ((List.range 4).map (fun i => field rec (288 + 24 * i) 24)).filter (· != 0)

/-- An id is that of an itinerary the drover knows, other than the entry's own, that has not retired (R63, log 84). -/
def State.pendingId (s : State) (d i : Nat) (e : Queued) : Bool :=
  s.runs.any (fun x => x.2.st != .retired && x.2.home == d && field x.2.record 264 24 == i) ||
    (s.dev d).ctxs.toList.any (fun c => c.queues.toList.any (fun q => q.any (fun x => x != e && field x.record 264 24 == i)))

/-- Another itinerary of a context has been served and is neither retired nor freed. DEDUCED: R63 names one that has departed,
and the service of one that has not departed yet holds the heads back as well (log 109). -/
def State.contextBusy (s : State) (c : Nat) (ds : List Nat) : Bool :=
  s.runs.any (fun x => x.2.st != .retired && x.2.ctx == c &&
    (ds.contains x.2.home || x.2.members.any (fun m => ds.contains m.1)))

/-- A queue head is eligible (R63). -/
def State.eligible (s : State) (d c : Nat) (e : Queued) : Bool :=
  !(s.ctx d c).suspHeld && s.partsFree e.members &&
    (predsOf e.record).all (fun i => !s.pendingId d i e) &&
    !s.contextBusy c (d :: e.members.map (·.1))

/-- What the drover can serve in a class of a context: a readmitted itinerary, or the queue's head. -/
inductive Candidate where
  | readmitted (run : Nat)
  | head (e : Queued)
  deriving DecidableEq, Repr

/-- The candidate of a class of a context. DEDUCED: the class of a readmitted itinerary is the one it was served from (log
114). -/
def State.candidate (s : State) (d k c : Nat) : Option Candidate :=
  match s.runs.find? (fun x => x.2.st == .readmitted && x.2.home == d && x.2.ctx == c && x.2.cls == k) with
  | some x => if s.partsFree x.2.members then some (.readmitted x.1) else none
  | none => match vget [] (s.ctx d c).queues k with
    | [] => none
    | e :: _ => if s.eligible d c e then some (.head e) else none

/-- The contexts in the order in which a class is served after context c. -/
def turns (c : Nat) : List Nat := (List.range 16).map (fun i => (c + 1 + i) % 16)

/-- The next to be served: class, context, candidate. -/
def State.nextServed (s : State) (d : Nat) : Option (Nat × Nat × Candidate) :=
  [3, 2, 1, 0].findSome? (fun k =>
    (turns (vget 15 (s.dev d).served k)).findSome? (fun c => (s.candidate d k c).map (fun x => (k, c, x))))

/-- The least count from service or arrival to departure (R65). -/
def departLag (members : List (Nat × Nat)) : Nat := if members.length = 1 then 3240 else 7336

/-- The partitions of members are given to an itinerary. -/
def State.takeParts (s : State) (run : Nat) (ms : List (Nat × Nat)) : State :=
  ms.foldl (fun s m => s.setPart m.1 m.2 ⟨some run, false⟩) s

/-- A head is served: its partitions are taken, and it departs at D (R65). -/
def State.serveHead (s : State) (d k c : Nat) (e : Queued) : State :=
  let lag := departLag e.members
  let at' := max (field e.record 384 64) (max (e.arrived + lag) (s.now + lag))
  let r := s.nextRun
  let run : Run :=
    { Run.none with record := e.record, ctx := c, home := d, members := e.members, st := .departing, departs := at',
                    base := at', control := e.control, params := e.params, cls := k, arrived := e.arrived, since := e.since }
  let s := s.modQueue d c k List.tail
  let s := { s with runs := put r run s.runs, nextRun := r + 1 }
  let s := (s.takeParts r e.members).schedDev s.now phLand d .queueAging
  s.sched at' phControl (.departure r)

/-- A readmitted itinerary is served: it resumes at Dr (R80, R278). -/
def State.serveResume (s : State) (run : Nat) : State :=
  let x := s.run run
  let at' := s.now + departLag x.members + Config.resumeDelay s.free
  let s := (s.takeParts run x.members).modRun run (fun x => { x with st := .resuming, departs := at' })
  (s.sched at' phControl (.resume run)).drawn

/-- The drover serves until nothing is eligible (R63). -/
def State.serveAll (s : State) (d : Nat) : Nat → State
  | 0 => s
  | fuel + 1 =>
    match s.nextServed d with
    | none => s
    | some (k, c, x) =>
      let s := s.modDev d (fun y => { y with served := vset y.served k c })
      match x with
      | .readmitted r => (s.serveResume r).serveAll d fuel
      | .head e => (s.serveHead d k c e).serveAll d fuel

/-- The drover of a device serves. At most 64 queues of 16 heads and 16 suspended itineraries can be served at once. -/
def execDroverServe (s : State) : Out := .next (s.serveAll s.cur.word.id.dev 1040)

/-! ## Aging (R64) -/

/-- The context stands suspended on its device: ticks do not count toward aging (R278). -/
def State.heldCtx (s : State) (d c : Nat) : Bool :=
  (s.ctx d c).suspHeld || s.runs.any (fun x => x.2.st == .suspended && x.2.home == d && x.2.ctx == c)

/-- An entry that has waited too long, with its class and context. -/
structure Aged where
  cls : Nat
  ctx : Nat
  entry : Queued
  deriving DecidableEq, Repr

/-- The entries of a device whose wait exceeds the limit, in arrival order. -/
def State.aged (s : State) (d : Nat) : List Aged :=
  let all := (List.range 16).flatMap (fun c => if s.heldCtx d c then [] else (List.range 3).flatMap (fun k =>
    ((vget [] (s.ctx d c).queues k).filter (fun e => decide (agingLimit < s.now - e.since))).map (fun e => ⟨k, c, e⟩)))
  let insert (a : Aged) : List Aged → List Aged := fun l =>
    l.filter (fun b => b.entry.arrived < a.entry.arrived) ++ a :: l.filter (fun b => !(b.entry.arrived < a.entry.arrived))
  all.foldr insert []

/-- The first occurrence of an entry removed. -/
def dropEntry (e : Queued) : List Queued → List Queued
  | [] => []
  | x :: r => if x = e then r else x :: dropEntry e r

/-- An aged entry moves to the tail of the next higher class where that has room; the slot it leaves lets others move. -/
def State.promote (s : State) (d : Nat) (a : Aged) : State :=
  if 16 ≤ (vget [] (s.ctx d a.ctx).queues (a.cls + 1)).length then s
  else
    ((((s.modQueue d a.ctx a.cls (dropEntry a.entry)).modQueue d a.ctx (a.cls + 1)
      (fun q => q ++ [{ a.entry with since := s.now }])).agesFrom d s.now).serveSoon d).schedDev s.now phLand d .queueAging

/-- Entries that have waited more than 2^24 ticks move up (R64). -/
def execQueueAging (s : State) : Out :=
  let d := s.cur.word.id.dev
  .next ((s.aged d).foldl (fun s a => s.promote d a) s)

/-! ## SUSP (R278) -/

/-- The itinerary of a context on a device that is neither retired nor halted. -/
def State.activeRun (s : State) (d c : Nat) : Option (Nat × Run) :=
  s.runs.find? (fun x => x.2.live && x.2.ctx == c && (x.2.home == d || x.2.members.any (fun m => m.1 == d)))

/-- The outcome of a request is written. -/
def State.suspOutcome (s : State) (d c : Nat) (last : BitVec 4) : State := s.modCtx d c (fun x => { x with suspLast := last })

/-- STATE of SUSP (R278). -/
def State.suspState (s : State) (d c : Nat) : Nat :=
  let x := s.ctx d c
  match s.activeRun d c with
  | some (_, r) =>
    let pending := (s.ctx r.home c).pending.isSome
    match r.st with
    | .suspended => 4
    | .readmitted | .resuming => 5
    | .saving => 3
    | .departing => if pending then 3 else if x.readmit then 5 else 1
    | _ => if pending then 3 else 2
  | none =>
    if x.suspHeld then 4 else if x.pending.isSome then 3 else if x.readmit then 5
    else if x.queues.toList.any (fun q => !q.isEmpty) then 1 else 0

/-- What a read of SUSP returns. -/
def State.suspWord (s : State) (d c : Nat) : Reg :=
  0#56 ++ (s.ctx d c).suspLast ++ BitVec.ofNat 4 (s.suspState d c)

/-- Heads of a context become ineligible at once. -/
def State.holdHeads (s : State) (d c : Nat) : State :=
  s.modCtx d c (fun x => { x with suspHeld := true, heldAt := s.now, suspLast := 1 })

/-- An itinerary that has been served and has not departed goes back to the head of the queue it was served from, with its
arrival and its wait (R64). -/
def State.unserve (s : State) (run : Nat) : State :=
  let x := s.run run
  let s := { s with agenda := s.agenda.filter (fun p => Instr.runKey p.act != some run) }
  let s := s.modRun run (fun y => { y with st := .retired })
  let s := s.modQueue x.home x.ctx x.cls (fun q =>
    ⟨x.record, x.members, x.arrived, x.since, x.control, x.params⟩ :: q)
  s.freeParts run

/-- The device is a member, and not the leader, of the itinerary of a context: of one that has been served, or, where none
stands in its own queues, of one that is queued at the leader (R278). -/
def State.memberOnly (s : State) (d c : Nat) : Bool :=
  match s.activeRun d c with
  | some (_, x) => x.home != d
  | none => (s.ctx d c).queues.toList.all (·.isEmpty) && s.devs.any (fun y => y.1 != d &&
      (vget Ctx.reset y.2.ctxs c).queues.toList.any (fun q => q.any (fun e => e.members.any (fun m => m.1 == d))))

/-- A pre-emption request is taken up (R80, R278). -/
def State.preempts (s : State) (dev ctx : Nat) : State :=
  let x := s.ctx dev ctx
  if x.pending.isSome || x.suspHeld then s.suspOutcome dev ctx 3
  else match s.activeRun dev ctx with
    | some (r, y) => match y.st with
      | .running =>
        let c := s.now + 4096
        (((s.modCtx dev ctx (fun x => { x with pending := some c })).schedDev c phControl dev (.preemptPending ⟨dev, ctx⟩))).suspOutcome
          dev ctx 1
      | .departing => (s.unserve r).holdHeads dev ctx
      | _ => s.suspOutcome dev ctx 3
    | none =>
      if x.queues.toList.any (fun q => !q.isEmpty) then s.holdHeads dev ctx else s.suspOutcome dev ctx 2

/-- A pre-emption request arrives (R80, R278). One for an itinerary whose leader is another device is ignored. -/
def execSuspPreempt (c : CtxId) (fn : Nat) (v : Reg) (s : State) : Out :=
  .next (s.throughFn c.dev c.ctx fn (fun s => if v != 1 || s.memberOnly c.dev c.ctx then s else s.preempts c.dev c.ctx))

/-- The waits of a context's entries go on where they stood, from the suspension or from their arrival in it (R64, R278). -/
def State.waitsGoOn (s : State) (d c : Nat) : State :=
  let held := (s.ctx d c).heldAt
  let s := s.modCtx d c (fun x => { x with
    suspLast := 1, readmit := true,
    queues := x.queues.map (fun q => q.map (fun e => { e with since := e.since + (s.now - max held e.since) })) })
  (((s.ctx d c).queues.toList.flatMap (fun q => q)).foldl (fun s e => s.agesFrom d e.since) s).serveSoon d

/-- A readmission request is taken up (R278). -/
def State.readmits (s : State) (dev ctx : Nat) : State :=
  match s.activeRun dev ctx with
  | some (r, x) =>
    if x.st = .suspended then (s.modRun r (fun x => { x with st := .readmitted })).waitsGoOn dev ctx
    else s.suspOutcome dev ctx 3
  | none =>
    if (s.ctx dev ctx).suspHeld then (s.modCtx dev ctx (fun x => { x with suspHeld := false })).waitsGoOn dev ctx
    else s.suspOutcome dev ctx 3

/-- A readmission request arrives (R278). -/
def execSuspReadmit (c : CtxId) (fn : Nat) (v : Reg) (s : State) : Out :=
  .next (s.throughFn c.dev c.ctx fn (fun s => if v != 2 || s.memberOnly c.dev c.ctx then s else s.readmits c.dev c.ctx))

/-! ## Doorbells (R279) -/

/-- An itinerary of a context has departed on a device and has not retired. -/
def State.departedHere (s : State) (d c : Nat) : Bool :=
  s.runs.any (fun x => x.2.st != .retired && x.2.st != .departing && x.2.ctx == c && x.2.members.any (fun m => m.1 == d))

/-- A host write of a context's doorbell. -/
def execDbell (dev ctx fn : Nat) (v : Reg) (s : State) : Out :=
  .next (s.throughFn dev ctx fn (fun s =>
    if s.departedHere dev ctx then
      let n := (s.ctx dev ctx).dbellNo
      (s.post dev ctx (v.setWidth 128) 4 fn n).modCtx dev ctx (fun x => { x with dbellNo := n + 1 })
    else s.modCtx dev ctx (fun x => { x with evqLost := bumpLost x.evqLost })))

/-! ## Writes of the host (R277, R280, R308, R318, R322, R327) -/

/-- A write of RELEASE for a context. -/
def execRelease (dev ctx : Nat) (v : Reg) (s : State) : Out := .next (if v = 1 then s.releasePart dev ctx else s)

/-- A write of STOPC for a context. -/
def execStopc (dev ctx : Nat) (v : Reg) (s : State) : Out := .next (s.stopAt dev ctx v)

/-- A write of PARTSET. -/
def execPartset (dev : Nat) (v : Reg) (s : State) : Out := .next (s.writePartset dev v)

/-- A write of a register of BAR0, which the physical function alone has, or of eight bytes of a window: bytes of the launch
record and entries of the member table are stored; the other bytes of a window ignore writes (R277, R327). -/
def execRegisterWrite (dev : Nat) (target : RegTarget) (v : Reg) (s : State) : Out :=
  .next (match target with
    | .bar0 fn index =>
      if fn != 0 then s.modDev dev (fun d => { d with unsupported := d.unsupported + 1 })
      else s.controlWrite dev (s.selectedCore dev) index v
    | .record fn ctx byte => s.throughFn dev ctx fn (fun s =>
      if byte < 0x40 then s.recordWrite dev ctx fn byte 8 v.toNat else s)
    | .member fn ctx entry => s.throughFn dev ctx fn (fun s =>
      if entry < 256 then s.modCtx dev ctx (fun x => { x with members := put entry (v.setWidth 16) x.members }) else s)
    | .other fn ctx _ => s.throughFn dev ctx fn id)

/-- What a read of eight bytes of a window returns (R277–R280): the status word, SUSP, zero for DBELL and for every byte that
has no meaning; what the write-only record and member table read as is not stated (log 34). -/
def State.windowRead (s : State) (dev ctx byte : Nat) : Reg :=
  if byte < 0x40 ∨ (0x100 ≤ byte ∧ byte < 0x300) then Config.writeOnly s.free
  else if byte = 0x40 then (s.ctx dev ctx).status
  else if byte = 0x48 then s.suspWord dev ctx
  else 0

end Sys2Proof.Machine
end

