-- ==== Sys2Proof/Machine/Fabric.lean ====
section
/-! DEFINITION. The caravan fabric: the group and its routes (R259), flits and offsets (R261, R264–R266), send, recv and
coll (R267–R270), link failure and retraining (R273, R274). -/

namespace Sys2Proof.Machine

/-! ## Herds and ranges -/

/-- A herd member in its place: by member, then by core. -/
def insertMember (x : Nat × CoreId) : List (Nat × CoreId) → List (Nat × CoreId)
  | [] => [x]
  | y :: r => if x.1 < y.1 ∨ (x.1 = y.1 ∧ x.2.core < y.2.core) then x :: y :: r else y :: insertMember x r

/-- The members of a herd entry as (member, core), ascending by member and then by core. -/
def State.herdMembers (s : State) (hd : Nat) : List (Nat × CoreId) :=
  ((s.herd s.id hd).map (fun c => (memberNo (s.runOf s.id) c.dev, c))).foldr insertMember []

/-- The checks that send and coll share (R267, R269): alignment, size, ranges. -/
def fabricChks (src dst n : Nat) : List Check :=
  [alignChk .sp src 64, alignChk .sp dst 64, chk (n % 256 != 0 || decide (16384 < n)) 0x11 (addrDetail .sp dst)] ++
    (if n = 0 then [] else [boundChk .sp spSize src n, boundChk .sp spSize dst n])

/-- What the word still has to land keeps the core from being quiescent (R75). -/
def Core.landsAt (c : Core) (t : Nat) : Core := { c with unlandedTill := max c.unlandedTill t }

/-! ## send (R267, R283) -/

/-- The devices among destinations, each once, in the order of their members. -/
def destDevs : List (Nat × CoreId) → List Nat
  | [] => []
  | x :: r => x.2.dev :: (destDevs r).filter (fun d => d != x.2.dev)

/-- Flit f of a send is read and leaves for every destination member; the next one is read 4 ticks later. -/
def State.sendsFlit (s : State) (w : WordRef) (j : SendJob) (f : Nat) : State :=
  let a := j.src + 256 * f
  let d := j.dst + 256 * f
  let bytes := s.readSpace w.id 0 .sp a 256
  let poison := movedPoison a d (s.poisonLines w.id 0 .sp a 256)
  let s := (destDevs j.dests).foldl (fun s dev =>
    s.sendFlit w s.now w.id.dev dev
      (.send ((j.dests.filter (fun x => x.2.dev == dev)).map (·.2)) d bytes poison j.tracker)) s
  if f + 1 < j.flits then s.sched (s.now + 4) phRead (.accessPerform (.sendRead w j (f + 1))) else s

/-- A later flit read of a send. -/
def performSendRead (w : WordRef) (j : SendJob) (f : Nat) (s : State) : State :=
  s.perform w [s.watchChk w .sp (j.src + 256 * f) 256 false] (fun s => s.sendsFlit w j f)

/-- send hd, [aa], nc, k. -/
def execSend (_g : BitVec 4) (h : BitVec 8) (a : BitVec 5) (n k : BitVec 4) (s : State) : Out :=
  let src := (s.me.ra a.toNat).toNat
  let dst := (s.me.ra (a.toNat + 1)).toNat
  let len := (s.me.rn n.toNat).toNat
  let dests := (s.herdMembers h.toNat).filter (fun x => x.2 != s.id)
  let flits := len / 256
  let checks := chk dests.isEmpty 0x57 0 :: fabricChks src dst len
  if len = 0 then s.word checks id
  else
    s.portWord (checks ++ [s.watchChk s.cur.word .sp src 256 false])
      (fun _ => beatsOn portSR s.now 4 flits)
      (fun s =>
        let far := (dests.map (fun x => s.latency s.id.dev x.2.dev)).foldl max 0
        let job : SendJob := { src := src, dst := dst, flits := flits, dests := dests, tracker := k.toNat }
        (s.sendsFlit s.cur.word job 0).modMe
          (fun c => (c.accessAt (s.now + 4 * (flits - 1))).landsAt (s.now + 4 * (flits - 1) + far)))

/-! ## Landings and recv (R266, R268) -/

/-- A landing on a tracker: the count saturates. -/
def Core.tracked (c : Core) (k : Nat) : Core :=
  let v := vget 0 c.tr k
  { c with tr := vset c.tr k (if v == BitVec.allOnes 16 then v else v + 1) }

/-- A core still takes what a word of its itinerary brings: it is not halted (R308). -/
def State.lands (s : State) (w : WordRef) (x : CoreId) : Bool :=
  (s.coreAt x).run == some w.run && (s.run w.run).st != .halted

/-- The spoor record of a landing, written by the receiving core (R325). -/
def State.spoorLanding (s : State) (w : WordRef) (x : CoreId) (k : Nat) : State :=
  if s.spoorOn x 5 then
    s.spoorCore x .link 2 (s.now - (s.coreAt x).base)
      (BitVec.ofNat 128 ((s.coreAt w.id).member + w.id.core * 2 ^ 8 + k * 2 ^ 16))
  else s

/-- A send flit lands: its bytes are written, in the order of R226, and its tracker counts it (R266). -/
def execFlitLanding (w : WordRef) (dst : CoreId) (addr : Nat) (bytes : List Byte) (poison : List Nat) (tracker : Nat)
    (s : State) : Out :=
  .next (if s.lands w dst then
      (s.modCore dst (fun c => (c.writeSpace .sp addr bytes poison).tracked tracker)).spoorLanding w dst tracker
    else s)

/-- recv hd, nc, k (R268). -/
def execRecv (_g : BitVec 4) (h : BitVec 8) (n k : BitVec 4) (s : State) : Out :=
  let len := (s.me.rn n.toNat).toNat
  let herd := s.herd s.id h.toNat
  let e := len / 256 * (herd.filter (fun x => x != s.id)).length
  s.word [chk (len % 256 != 0) 0x11 (addrDetail .sp 0), chk herd.isEmpty 0x57 0,
      chk (len % 256 == 0 && !herd.isEmpty && (vget 0 s.me.tr k.toNat).toNat != e) 0x06 0]
    (fun s => s.modMe (fun c => { c with tr := vset c.tr k.toNat 0 }))

/-! ## coll (R269, R270) -/

/-- The number of members of a collective. -/
def collP (j : CollJob) : Nat := j.members.length

/-- The root of a collective. -/
def collRoot (j : CollJob) (d : CoreId) : CoreId := (j.members.head?.map (·.2)).getD d

/-- Ticks from one flit of a core to its next one. -/
def collPace (j : CollJob) : Nat := if j.index = 0 then 4 else 4 * (collP j - 1)

/-- The 32-bit elements of bytes. -/
def wordsOf (bs : List Byte) : List Nat := (List.range (bs.length / 4)).map (fun i => leNat ((bs.drop (4 * i)).take 4))

/-- One element of the result of a collective with its flags (R139, R135, R269). Of a single contribution it is that element,
a NaN being quiet (R123, R270). -/
def collElem (op : CollOp) (xs : List Nat) : Nat × BitVec 5 :=
  let comb (f : Val → Val → Val) (a b : Nat × BitVec 5) : Nat × BitVec 5 :=
    let r := rne fF32 (f (valOf fF32 a.1) (valOf fF32 b.1))
    (r.bits, a.2 ||| b.2 ||| r.flags)
  let leaves := match xs with
    | [x] => let r := rne fF32 (valOf fF32 x); [(r.bits, r.flags)]
    | xs => xs.map (fun x => (x, 0#5))
  match op with
  | .sumF32 => (tree (comb (addV .rne)) xs.length leaves).headD (0, 0)
  | .maxF32 => (tree (comb maxV) xs.length leaves).headD (0, 0)
  | .sumC32 =>
    let r := clampInt (intRange .c32) ((xs.map (intOf .c32)).foldl (· + ·) 0)
    (intBits 32 r.1, r.2)

/-- The result flit of contributions with its flags. -/
def collResult (op : CollOp) (parts : List (List Byte)) : List Byte × BitVec 5 :=
  let ws := parts.map (fun b => (wordsOf b).toArray)
  let es := (List.range 64).map (fun i => collElem op (ws.map (fun w => w.getD i 0)))
  (es.flatMap (fun e => leBytes 4 e.1), es.foldl (fun f e => f ||| e.2) 0)

/-- A core's flit f is read: the root keeps its own, another member's leaves for the root, and the only member of a
herd of one has its result 12 ticks later. -/
def State.contributes (s : State) (w : WordRef) (j : CollJob) (f : Nat) : State :=
  let root := collRoot j w.id
  let bytes := s.readSpace w.id 0 .sp (j.src + 256 * f) 256
  let s :=
    if collP j = 1 then
      let r := collResult j.op [bytes]
      s.schedAt (s.now + 12) phWrite 2 w.id.dev w.id.core (.collResultWrite w w.id (j.dst + 256 * f) r.1 r.2)
    else if j.index = 0 then s.modCore w.id (fun c => { c with colls := ⟨j, f, bytes⟩ :: c.colls })
    else s.sendFlit w s.now w.id.dev root.dev (.coll root j.index j f bytes)
  if 256 * (f + 1) < j.n then s.sched (s.now + collPace j) phRead (.accessPerform (.collRead w j (f + 1))) else s

/-- The checks of a read of a contribution: it is a use of SP (R310, R323). -/
def State.collChks (s : State) (w : WordRef) (j : CollJob) (f : Nat) : List Check :=
  [s.poisonChk w.id 0 .sp (j.src + 256 * f) 256, s.watchChk w .sp (j.src + 256 * f) 256 false]

/-- A flit read of a collective. -/
def performCollRead (w : WordRef) (j : CollJob) (f : Nat) (s : State) : State :=
  s.perform w (s.collChks w j f) (fun s => s.contributes w j f)

/-- coll.op hd, [aa], nc. A core that is no member of the herd has no reads to place (R270). -/
def coll (op : CollOp) (h : BitVec 8) (a : BitVec 5) (n : BitVec 4) (s : State) : Out :=
  let src := (s.me.ra a.toNat).toNat
  let dst := (s.me.ra (a.toNat + 1)).toNat
  let len := (s.me.rn n.toNat).toNat
  let members := s.herdMembers h.toNat
  let root := (members.head?.map (·.2)).getD s.id
  let index := members.findIdx (fun x => x.2 == s.id)
  let p := members.length
  let flits := len / 256
  let job : CollJob :=
    { word := s.cur.word, op := op, herd := h.toNat, src := src, dst := dst, n := len, members := members, index := index,
      hc := (members.map (fun x => s.latency root.dev x.2.dev)).foldl max 48, issued := s.tick }
  let first := s.now + 4 * (index - 1)
  let checks := chk (!(s.herd s.id h.toNat).contains s.id) 0x57 0 :: fabricChks src dst len
  if len = 0 then s.word checks id
  else
    s.portWord (checks ++ (if index ≤ 1 ∧ index < p then s.collChks s.cur.word job 0 else []))
      (fun _ => if index < p then beatsOn portSR first (collPace job) flits else [])
      (fun s =>
        let w := s.cur.word
        let s := if index ≤ 1 then s.contributes w job 0
          else s.sched first phRead (.accessPerform (.collRead w job 0))
        let s := if index = 0 ∧ 1 < p then s.sched (s.now + 4 * (p - 1) + job.hc) phRead (.collReduce w job 0) else s
        let done := if p = 1 then s.now + 12 + 4 * (flits - 1) else s.now + 4 * flits * (p - 1) + 2 * job.hc + 8
        s.modMe (fun c => (c.accessAt (first + collPace job * (flits - 1))).landsAt done))

/-- coll.sum.f32. -/
def execCollSumF32 (_g : BitVec 4) (h : BitVec 8) (a : BitVec 5) (n : BitVec 4) (s : State) : Out := coll .sumF32 h a n s
/-- coll.sum.c32. -/
def execCollSumC32 (_g : BitVec 4) (h : BitVec 8) (a : BitVec 5) (n : BitVec 4) (s : State) : Out := coll .sumC32 h a n s
/-- coll.max.f32. -/
def execCollMaxF32 (_g : BitVec 4) (h : BitVec 8) (a : BitVec 5) (n : BitVec 4) (s : State) : Out := coll .maxF32 h a n s

/-- The contribution of member i to flit f: the one of the root's leg whose op, N and issue tick are the root's (R270). -/
def contribution (c : Core) (j : CollJob) (f i : Nat) : Option Contribution :=
  c.colls.find? (fun x => x.job.herd == j.herd && x.job.index == i && x.f == f && x.job.op == j.op && x.job.n == j.n &&
    x.job.issued == j.issued && x.job.word.leg == j.word.leg)

/-- The result of flit f goes to every member's device as one flit that leaves the root 8 ticks later; every core writes it at
w_f. -/
def State.collSends (s : State) (w : WordRef) (j : CollJob) (f : Nat) (xs : List (CoreId × Contribution)) : State :=
  let r := collResult j.op (xs.map (·.2.bytes))
  let t := s.now + 8 + j.hc
  let devs := destDevs (xs.map (fun x => (0, x.1)))
  devs.foldl (fun s dev =>
    let dests := (xs.filter (fun x => x.1.dev == dev)).map (fun x => (x.2.job.word, x.2.job.dst + 256 * f))
    s.sendFlit w (s.now + 8) w.id.dev dev (.collResult dests t r.1 r.2)) s

/-- The root reduces flit f (R270): a contribution that is missing or does not match raises landing miss. -/
def execCollReduce (w : WordRef) (j : CollJob) (f : Nat) (s : State) : Out :=
  let c := s.coreAt w.id
  let parts := (List.range (collP j)).map (contribution c j f)
  let got := parts.filterMap (fun x => x)
  .next (s.perform w [chk (decide (got.length < collP j)) 0x06 0] (fun s =>
    let s := s.modCore w.id (fun c => { c with colls := c.colls.filter (fun x => x.job.herd != j.herd || x.f != f ||
      x.job.issued != j.issued || x.job.word.leg != j.word.leg) })
    let s := s.collSends w j f ((j.members.map (·.2)).zip got)
    if 256 * (f + 1) < j.n then s.sched (s.now + 4 * (collP j - 1)) phRead (.collReduce w j (f + 1)) else s))

/-- A result flit of a collective is written into SP, and its flags join FLAGS_NMU, but for a hit of the member's own
watchpoints (R269, R270, R323). -/
def execCollResultWrite (w : WordRef) (dst : CoreId) (addr : Nat) (bytes : List Byte) (flags : BitVec 5) (s : State) :
    Out :=
  .next (if s.lands w dst then
      s.perform w [s.watchChk w .sp addr bytes.length true]
        (fun s => s.modCore dst (fun c => (c.writeSpace .sp addr bytes []).orNmu flags))
    else s)

/-! ## Arrivals (R261, R264, R273) -/

/-- DETAIL of a link fault (R307). -/
def linkDetail (l : Link) (link : Nat) (ofs : BitVec 16) : BitVec 256 :=
  BitVec.ofNat 256 (link + l.pdev.toNat * 2 ^ 8 + ofs.toNat * 2 ^ 16)

/-- The offset of an arrival at a link end is measured: beyond 3 ticks it raises drift limit (R261). -/
def State.measured (s : State) (dev link : Nat) (ofs : Int) : State :=
  let s := s.modLink dev link (fun l => { l with ofs := BitVec.ofInt 8 ofs })
  if 48 < ofs.natAbs then s.deviceFault dev 0x0A .link (linkDetail (s.link dev link) link (BitVec.ofInt 16 ofs)) else s

/-- A link end takes no flit: it is down, or its last valid arrival lies behind (R273). -/
def State.deaf (s : State) (dev link : Nat) : Bool :=
  let l := s.link dev link
  !l.up || l.silent.any (fun t => decide (t < s.now + 64))

/-- A data flit on its way to a link end. -/
def onLink (dev link : Nat) (p : Pend) : Bool :=
  match p.act with
  | .flitArrival d l (.arrive _ _ _ _) => d == dev && l == link
  | _ => false

/-- A receiving end declares its link down: flits in flight on it are lost, and link down is raised (R273). -/
def State.declareDown (s : State) (dev link : Nat) : State :=
  let s := { s with agenda := s.agenda.filter (fun p => !onLink dev link p) }
  let s := s.modLink dev link (fun l => { l with up := false })
  s.deviceFault dev 0x40 .link (linkDetail (s.link dev link) link ((s.link dev link).ofs.signExtend 16))

/-- No valid flit has come to a link end since a count: the end declares its link down, where it has not been retrained since
then (R273). -/
def State.silentSince (s : State) (dev link since : Nat) : State :=
  let l := s.link dev link
  if l.up && l.silent == some (since + 64) then s.declareDown dev link else s

/-- A flit is at a link end. One that arrives over the link is lost where the end takes none, and else its offset is
measured (R261, R273); a data flit's is the one that the link's latest control flit showed (log 57), and it then goes on, or is
at its destination. A data flit that leaves by the end enters the link. -/
def execFlitArrival (dev link : Nat) (body : FlitBody) (s : State) : Out :=
  .next (match body with
    | .control ofs => if s.deaf dev link then s else s.measured dev link ofs
    | .silence since => s.silentSince dev link since
    | .enter w src hops cargo | .relay w src hops cargo => match hops with
      | [] => s.deliver w cargo
      | _ :: rest => s.flitEnters w src dev link rest cargo
    | .arrive w src hops cargo =>
      if s.deaf dev link then s else (s.measured dev link (s.link dev link).ofs.toInt).flitGoesOn w src hops cargo)

/-- The count phase of a device less the leader's, from the offsets at the receiving ends of its route (R261). -/
def State.phaseOf (s : State) (dev : Nat) : Int :=
  (((s.route? 0 dev).map (·.hops)).getD []).foldl (fun n h =>
    let l := s.link h.1 h.2
    n + (s.link l.pdev.toNat l.plink.toNat).ofs.toInt) 0

/-- The lead of a device: its count phase less that of the latest member of the group (R261). -/
def State.leadOf (s : State) (dev : Nat) : Int :=
  s.phaseOf dev - ((List.range s.size).map s.phaseOf).foldl min (s.phaseOf dev)

/-- The leader's lead message arrives at a device, over its link `link`, which takes it unless it is down; a device that is the
leader takes it over none, a number above 17 (R261, R273). The pace window of a device begins with the first one (R263,
log 119). -/
def execLeadMessage (dev link : Nat) (s : State) : Out :=
  .next (if link < 18 ∧ s.deaf dev link then s
    else
      let t := s.modDev dev (fun d => { d with lead := s.leadOf dev })
      if s.paceDue dev then t else t.restartPace dev)

/-! ## Failure and retraining (R273, R274) -/

/-- A link direction fails: the last valid flit arrives at this count, and the end declares its link down 64 ticks later
(R273). -/
def execLinkDown (dev link : Nat) (s : State) : Out :=
  let l := s.link dev link
  .next (if l.up && l.silent.isNone then
      (s.modLink dev link (fun l => { l with silent := some (s.now + 64) })).schedDev (s.now + 64) phLand dev
        (.flitArrival dev link (.silence s.now))
    else s)

/-- A link end as retraining leaves it. -/
def Link.retrained (l : Link) : Link := { l with up := true, silent := none }

/-- Firmware retrains a link: flits that were on it are lost, both ends carry flits again, and the route epoch counts it
(R273, R274). -/
def execLinkRetrain (dev link : Nat) (s : State) : Out :=
  let l := s.link dev link
  let far := (l.pdev.toNat, l.plink.toNat)
  .next (if l.up && (s.link far.1 far.2).up then s
    else
      let s := { s with epoch := s.epoch + 1,
                        agenda := s.agenda.filter (fun p => !onLink dev link p && !onLink far.1 far.2 p) }
      (s.modLink dev link Link.retrained).modLink far.1 far.2 Link.retrained)

/-! ## Forming the group (R259) -/

/-- The link a hop takes, as firmware fixes it. -/
def hopLink (links : List LinkSet) (h : Nat × Nat) : Option LinkSet :=
  links.find? (fun x => x.dev == h.1 && x.link == h.2)

/-- Hops lead from a device to another over links whose ends are assigned to partitions; on a device passed through, the
partition `via` of the end it arrived at is that of the end it leaves by, since an itinerary has one partition of a
device (R259, R280). -/
def hopsLead (links : List LinkSet) : Nat → Option Nat → Nat → List (Nat × Nat) → Bool
  | at', _, dst, [] => at' == dst
  | at', via, dst, h :: r =>
    h.1 == at' && match hopLink links h with
      | none => false
      | some x =>
        x.part.isSome && (via.isNone || via == x.part) && ((hopLink links (x.pdev, x.plink)).map (fun y =>
          y.pdev == x.dev && y.plink == x.link && y.classB == x.classB && y.part.isSome &&
            hopsLead links x.pdev y.part dst r)).getD false

/-- The latency of hops: their hop latencies and 64 for each device passed through. -/
def hopsLatency (links : List LinkSet) (hops : List (Nat × Nat)) : Nat :=
  (hops.map (fun h => if ((hopLink links h).map (·.classB)).getD false then 1600 else 640)).foldl (· + ·) 0 +
    64 * (hops.length - 1)

/-- A route obeys R259. -/
def routeOk (gs : GroupSet) (r : Route) : Bool :=
  let h := hopsLatency gs.links r.hops
  decide (1 ≤ r.hops.length) && decide (r.hops.length ≤ 8) && hopsLead gs.links r.src none r.dst r.hops &&
    decide (h ≤ 8128) && (r.src != 0 || decide (h ≤ 4032)) &&
    (gs.routes.find? (fun x => x.src == r.dst && x.dst == r.src)).any (fun x => hopsLatency gs.links x.hops == h)

/-- A group can be formed: 1 to 256 devices, links 0 to 17, one route for every ordered pair, and the bounds. -/
def groupOk (gs : GroupSet) : Bool :=
  decide (1 ≤ gs.size) && decide (gs.size ≤ 256) &&
    gs.links.all (fun x => decide (x.dev < gs.size) && decide (x.link < 18)) &&
    (List.range gs.size).all (fun a => (List.range gs.size).all (fun b =>
      (gs.routes.filter (fun r => r.src == a && r.dst == b)).length == (if a = b then 0 else 1))) &&
    gs.routes.all (fun r => decide (r.src < gs.size) && decide (r.dst < gs.size) && routeOk gs r)

/-- An itinerary is queued or running on a partition. -/
def State.busyPart (s : State) (m : Nat × Nat) : Bool :=
  s.runs.any (fun x => x.2.live && x.2.members.contains m) ||
    s.devs.any (fun d => d.2.ctxs.toList.any (fun c => c.queues.toList.any (fun q => q.any (fun e => e.members.contains m))))

/-- The partitions that a route crosses. -/
def State.crossed (s : State) (r : Route) : List (Nat × Nat) :=
  r.hops.flatMap (fun h =>
    let l := s.link h.1 h.2
    let far := s.link l.pdev.toNat l.plink.toNat
    (l.part.map (fun p => (h.1, p))).toList ++ (far.part.map (fun p => (l.pdev.toNat, p))).toList)

/-- The link ends of a group set as firmware fixes them. -/
def State.setLinks (s : State) (xs : List LinkSet) : State :=
  xs.foldl (fun s x => s.modLink x.dev x.link (fun l =>
    { l with classB := x.classB, pdev := BitVec.ofNat 8 x.pdev, plink := BitVec.ofNat 5 x.plink, part := x.part })) s

/-- Firmware forms the group: the routes change only while nothing is queued or running on the partitions they cross,
and a change counts in the route epoch (R259). -/
def execGroupForm (gs : GroupSet) (s : State) : Out :=
  let routes := gs.routes.map (fun r => { r with h := hopsLatency gs.links r.hops })
  let t := s.setLinks gs.links
  let gone := s.routes.filter (fun r => !routes.contains r)
  let new := routes.filter (fun r => !s.routes.contains r)
  .next (if !groupOk gs || (gone.flatMap s.crossed ++ new.flatMap t.crossed).any s.busyPart then s
    else { t with size := gs.size, formed := true, routes := routes,
                  epoch := if gone.isEmpty && new.isEmpty then s.epoch else s.epoch + 1 })

end Sys2Proof.Machine
end

