-- ==== Sys2Proof/Machine/Faults.lean ====
section
/-! DEFINITION. Halts (R85, R308), fault records (R204, R307), unwinds of kraals (R311–R314), the group trigger (R321),
group holds (R84) and the pace window (R263). -/

namespace Sys2Proof.Machine

/-! ## Fault records (R204, R307) -/

/-- Where a fault stands in the order sq, ax, vx, mx, NMU, link: under its ENGINE, but a join miss is the fault of SQ's word,
whatever stream its record names (R74, R83). -/
def FaultRec.rank (f : FaultRec) : Nat := if f.cause = 0x03 then engineNo .sq else engineNo f.eng

/-- Record a is kept rather than b: by count, member, core and engine, and in one engine by the issue tick of the word (R144,
R204, R307). -/
def keptBefore (a b : FaultRec) : Bool :=
  if a.t ≠ b.t then a.t < b.t else if a.member ≠ b.member then a.member < b.member
  else if a.lcore ≠ b.lcore then a.lcore < b.lcore
  else if a.rank ≠ b.rank then a.rank < b.rank
  else a.word.issue < b.word.issue

/-- The kept record among some: the first of equal ones. -/
def keptOf : List FaultRec → Option FaultRec
  | [] => none
  | f :: r => match keptOf r with
    | none => some f
    | some g => if keptBefore g f then some g else some f

/-- The kept record of a halt: a record of cause 0x0F only where there is no other. DESIGN CHOICE: a fault that unwinds is
none of its faults, one of the halt's own count among them (log 150). -/
def Run.keptFault (r : Run) : Option FaultRec :=
  match keptOf (r.faults.filter (fun f => f.scope != 3 && f.cause != 0x0F)) with
  | some f => some f
  | .none => keptOf (r.faults.filter (fun f => f.cause == 0x0F))

/-- The kept record of an unwind: of the faults that began it, which name its herd and region (R311, R313). -/
def Run.keptUnwind (r : Run) (u : Unwind) : Option FaultRec :=
  keptOf (r.faults.filter (fun f => f.scope == 3 && f.t == u.t && f.kraal == some (u.region, u.herd)))

/-- The faults of an itinerary beside the kept one; those of cause 0x0F are never counted, and one that is kept is none of those
counted (R307; log 44). -/
def Run.more (r : Run) (f : FaultRec) : Nat :=
  min (2 ^ 32 - 1) ((r.faults.filter (fun f => f.cause != 0x0F)).length - (if f.cause = 0x0F then 0 else 1))

/-- A fault record in the layout of R307. -/
def Run.faultRecord (r : Run) (f : FaultRec) : BitVec 512 :=
  BitVec.ofNat 64 f.t ++ BitVec.ofNat 24 (field r.record 264 24) ++ BitVec.ofNat 8 f.cause ++ BitVec.ofNat 8 f.member ++
    BitVec.ofNat 8 f.lcore ++ BitVec.ofNat 4 (engineNo f.eng) ++ BitVec.ofNat 4 f.scope ++ BitVec.ofNat 8 f.word.leg ++
    (if f.word.wp || !f.ofWord then BitVec.allOnes 32 else BitVec.ofNat 32 f.word.nominal) ++
    (if f.word.wp || !f.ofWord then BitVec.allOnes 32 else BitVec.ofNat 32 f.word.issue) ++
    BitVec.ofNat 32 (r.more f) ++ 0#32 ++ f.detail

/-- A record is written into the fault area of the context, on the leader. -/
def State.writeRecord (s : State) (run : Nat) (rec : BitVec 512) : State :=
  let x := s.run run
  s.writeHbm x.home x.ctx (s.ctx x.home x.ctx).faultArea.toNat (leBytes 64 rec.toNat)

/-- An unwind takes place: it governs on some core of its herd (R312). -/
def Run.takesPlace (r : Run) (u : Unwind) : Bool := ((r.herds[u.herd]?).getD []).any (fun id => (r.governing id).contains u)

/-- The kept record of the unwinds of one count that take place: of the lowest member, and of its lowest core (R204, R307). -/
def Run.keptUnwinds (r : Run) (t : Nat) : Option FaultRec :=
  keptOf ((r.unwinds.filter (fun u => u.t == t && r.takesPlace u)).filterMap r.keptUnwind)

/-- The leader writes the kept record of a halt, or the record of an unwind that took place and that no halt has
overtaken: of unwinds of one count that of the lowest member and core alone, while the others are counted (R204, R307, R313). -/
def execFaultRecordWrite (run : Nat) (unwind : Option Unwind) (s : State) : Out :=
  let x := s.run run
  .next (match unwind with
    | none => match x.keptFault with
      | none => s
      | some f =>
        let rec' := x.faultRecord f
        (s.modRun run (fun x => { x with kept := some rec' })).writeRecord run rec'
    | some u =>
      match x.keptUnwind u with
      | none => s
      | some f =>
        let overtaken := (x.halt.map (fun h => decide (h.1 ≤ u.t))).getD false || x.kept.isSome
        if overtaken || !x.takesPlace u || x.keptUnwinds u.t != some f then s
        else s.writeRecord run (x.faultRecord f))

/-- When the leader writes a record of a fault at T: after the stop and no later than T + 24,576 (log 11). -/
def State.schedRecord (s : State) (run t : Nat) (unwind : Option Unwind) : State :=
  (s.sched (t + 8192 + Config.recordDelay s.free % 16385) phEnd (.faultRecordWrite run unwind)).drawn

/-! ## Halts (R85, R308) -/

/-- The stop that a write of STOPC has asked for on a device has not arisen yet. -/
def Run.stopDue (r : Run) (dev t origin cause : Nat) : Bool :=
  cause == 0x5E && dev == origin && !r.faults.any (fun f => f.cause == 0x5E && f.t == t)

/-- The debug stop of an itinerary arises at this count on a device, with its record and its spoor record (R307, R322, R325). -/
def State.debugStops (s : State) (dev run t : Nat) : State :=
  let x := s.run run
  let s := (s.spoorDev dev .drover 4 0x5E).modRun run (fun y => { y with faults := y.faults ++
    [{ t := t, dev := dev, eng := .drover, member := memberNo x dev, lcore := 0xFF, cause := 0x5E, detail := 0,
       scope := scopeNo .itinerary,
       word := { id := ⟨dev, 0, 0xFF⟩, run := run, eng := .drover, leg := x.leg, issue := 0, nominal := 0, wp := true },
       ofWord := false }] })
  (s.haltFrom run t .itinerary dev).sendHalt run t .itinerary dev 0x5E

/-- A halt flit has reached a device: it stops its part of the itinerary 8,192 counts after T (R85). A stop that STOPC asked for
arises with it where the itinerary has neither halted nor retired by then (R322). -/
def execHaltFlit (dev run t : Nat) (_scope : HaltScope) (origin cause : Nat) (s : State) : Out :=
  .next (if !(s.run run).live then s
    else if (s.run run).stopDue dev t origin cause then s.debugStops dev run t
    else s.schedDev (t + 8192) phEnd dev (.haltStop dev run t))

/-- STATUS of the class-0 record of a halt (R308). -/
def haltStatus (scope : HaltScope) (cause : Nat) : Nat :=
  if cause = 0x5E then 3 else match scope with
    | .itinerary => 1
    | .group => 2

/-- What a halt or an unwind leaves of a dispatch: nothing once it has completed or where a fence of the core still holds it
(R308); the access that is on its way to the completer performs there (R231, R234). -/
def Core.leftOf (c : Core) (d : Dispatch) : Option Dispatch :=
  if d.done || c.holds false d.pool d.issued then none else some { d with ended := true }

/-- What a halt or an unwind leaves of the access that SQ waits for: nothing where a fence of the core holds it, else it
performs at the host, and no register hears of it (R231, R234, R308). -/
def Core.strayOf (c : Core) : List Stray :=
  match c.wait with
  | .host _ addr size dst v issued => if c.holds true false issued then [] else [⟨issued, addr, size, dst.isSome, v⟩]
  | _ => []

/-- A core at the stop: its streams stand, and fences are discarded with the accesses they hold; what is on its way to a
completer performs there (R231, R308; log 130). -/
def Core.halted (c : Core) : Core :=
  { c.stopped with
    wait := .none, fences := [], dispatches := c.dispatches.filterMap c.leftOf, strays := c.strays ++ c.strayOf,
    captures := [] }

/-- The untimed accesses of a core that a halt or an unwind discards: those that a fence of the core holds (R308). -/
def Core.discards (c : Core) (id : CoreId) : List (CoreId × UntimedId) :=
  (match c.wait with
    | .host _ _ _ _ _ issued => if c.holds true false issued then [(id, UntimedId.scalar issued)] else []
    | _ => []) ++
  (c.dispatches.filter (fun d => !d.done && c.holds false d.pool d.issued)).map (fun d => (id, UntimedId.dispatch d.number))

/-- Cores of an itinerary stop (R308). No fence of another itinerary waits for an access that they discard; their own go with it
(R234). -/
def State.haltCores (s : State) (run : Nat) (ids : List CoreId) : State :=
  let others := (s.runs.map (·.1)).filter (· != run)
  (ids.flatMap (fun id => (s.coreAt id).discards id)).foldl (fun s x => s.forgotten others run x) (s.modCores ids Core.halted)

/-- The member record of a device that stops under another member's fault. -/
def State.stoppedRecord (s : State) (run dev t origin : Nat) : FaultRec :=
  let x := s.run run
  { t := t, dev := dev, eng := .drover, member := memberNo x dev, lcore := 0xFF, cause := 0x0F,
    detail := BitVec.ofNat 256 (origin + t * 2 ^ 64), scope := ((x.halt.map (fun h => scopeNo h.2.1)).getD 1),
    word := { id := ⟨dev, 0, 0xFF⟩, run := run, eng := .drover, leg := x.leg, issue := 0, nominal := 0, wp := true },
    ofWord := false }

/-- The first member to stop halts the itinerary: what is in flight does not perform, and the record is on its way. -/
def State.haltsRun (s : State) (run t : Nat) : State :=
  let s := { s with agenda := s.agenda.filter (fun p => !Instr.keepsTick p.act run),
                    kept := s.kept.filter (fun k => k.run != run) }
  (s.modRun run (fun x => { x with st := .halted })).schedRecord run t none

/-- The stop of an itinerary on a device at S = T + 8,192 (R308): its partition is halted, its cores stop, and the drover
posts a class-0 record. An itinerary that has retired or stands suspended holds no partition and is not stopped; of one that
stands suspended the stop of R322 has passed, and it goes on when it resumes (log 108). -/
def execHaltStop (dev run t : Nat) (s : State) : Out :=
  let x := s.run run
  .next (match x.halt with
    | none => s
    | some (t', scope, origin) =>
      let here := x.members.filter (fun m => m.1 == dev && (s.partOf m.1 m.2).run == some run && !(s.partOf m.1 m.2).halted)
      if t' != t then s
      else if x.st == .suspended || x.st == .readmitted then
        s.modRun run (fun y => { y with halt := none, faults := y.faults.filter (fun f => f.cause != 0x5E) })
      else if here.isEmpty || x.st == .retired then s
      else
        let s := if x.st = .halted then s else s.haltsRun run t
        let s := if (s.run run).faults.any (fun f => f.dev == dev && f.scope != 3) then s
          else s.modRun run (fun y => { y with faults := y.faults ++ [s.stoppedRecord run dev t origin] })
        let s := here.foldl (fun s m => (s.haltCores run (coresOn x m)).setPart m.1 m.2 ⟨some run, true⟩) s
        let s := s.lapsingOf dev x.ctx (fun _ => [])
        let cause := ((s.run run).keptFault.map (·.cause)).getD 0x0F
        s.postClass0 dev x.ctx (field x.record 264 24) (haltStatus scope cause) cause)

/-! ## Unwinds (R311–R314) -/

/-- A fault of a kraal is one of an unwind. -/
def markUnwound (w : WordRef) (u : Unwind) (f : FaultRec) : FaultRec :=
  if f.word = w ∧ f.t = u.t then { f with scope := 3, kraal := some (u.region, u.herd) } else f

/-- At the end of its count a fault of R305's kraal codes unwinds where its kraal is still open, and else halts; at a
member the unwind flit says when the unwind takes place (R311). -/
def execUnwindFlit (dev run : Nat) (u : Unwind) (source : Option WordRef) (s : State) : Out :=
  let x := s.run run
  .next (if !x.live then s
    else match source with
      | none => s.schedDev (u.t + 8192) phEnd dev (.kraalUnwind dev run u)
      | some w =>
        let covered := ((s.coreAt w.id).kraal.map (fun k => k.region == u.region && k.herd == u.herd)).getD false
        if !(s.mine w && covered) then s.beginHalt run u.t .itinerary dev u.cause
        else
          let s := s.modRun run (fun y => { y with faults := y.faults.map (markUnwound w u) })
          if x.unwinds.any (fun v => v.t == u.t && v.region == u.region && v.herd == u.herd) then s
          else
            let s := s.modRun run (fun y => { y with unwinds := y.unwinds ++ [u] })
            let s := x.members.foldl (fun s m =>
              s.schedDev (s.now + s.controlLatency dev m.1) phEnd m.1 (.unwindFlit m.1 run u none)) s
            s.schedRecord run u.t (some u))

/-- A pending effect of a core's own words, or a patch command of a region that has not performed (R308, R314). -/
def unwound (run : Nat) (id : CoreId) (p : Pend) : Bool :=
  (Instr.owner p.act).any (fun w => w.run == run && w.id == id)

/-- A pending step of a patch command of a region, up to its perform; a sketch command is none (R314). -/
def regionCommand (run : Nat) (id : CoreId) (rg : BitVec 13) (p : Pend) : Bool :=
  let here (c : NmuCmd) : Bool := c.word.run == run && c.word.id == id && c.region == rg && !isSketchOp c.op
  match p.act with
  | .patchPerform c => here c
  | .accessPerform (.descRead c) => here c
  | .accessPerform (.inputRead c _) => here c
  | .accessPerform (.secondRead c) => here c
  | _ => false

/-- A core unwinds (R313): streams stopped and counted as joined, leases cleared, queues and latches empty, what was
reserved for words withdrawn is free, and the handler is entered. -/
def Core.unwind (c : Core) (now cause handler : Nat) : Core :=
  let join (st : Stream) : Stream :=
    if st.st = .unforked then st else { st with st := .ended, joined := true, shift := 0 }
  ({ c with
    leases := [], q := Vector.replicate 8 [], o := Vector.replicate 4 [], latches := Vector.replicate 3 tileZero,
    ports := [], pis := [], bankWrites := [], captures := c.captures.map (fun (x : Nat × Nat) => (x.1, min x.2 now)),
    arrayFree := 0, loftFree := 0, controlFree := 0, accessesTill := min c.accessesTill now,
    dispatches := c.dispatches.filterMap c.leftOf, strays := c.strays ++ c.strayOf, fences := [], reached := false,
    sq := join c.sq, ax := join c.ax, vx := join c.vx, mx := join c.mx }).enterKraal now cause handler

/-- An unwind on one core of the herd. -/
def State.unwindCore (s : State) (run : Nat) (u : Unwind) (id : CoreId) : State :=
  let x := s.run run
  let c := s.coreAt id
  let s := { s with agenda := s.agenda.filter (fun p => !regionCommand run id u.region p) }
  match c.kraal.filter (fun k => k.region == u.region) with
  | some k =>
    let cause := ((x.keptUnwind u).map (·.cause)).getD u.cause
    let s := { s with agenda := s.agenda.filter (fun p => !unwound run id p) }.modCore id
      (fun c => c.unwind s.now cause k.handler)
    (c.discards id).foldl (fun s x => s.performed run x) s
  | none => s.raise .sq (c.noWord id .sq s.now) false 0x59 0

/-- The unwind tick U on a device: each herd core there that follows this unwind acts (R312, R313). -/
def execKraalUnwind (dev run : Nat) (u : Unwind) (s : State) : Out :=
  let x := s.run run
  let ids := ((x.herds[u.herd]?).getD []).filter (fun id =>
    id.dev == dev && (s.coreAt id).run == some run && ((x.unwindsAt id s.now).map (fun v =>
      v.t == u.t && v.region == u.region)).getD false)
  .next (if x.st != .running then s else ids.foldl (fun s id => s.unwindCore run u id) s)

/-! ## Trigger, holds, pace (R84, R263, R321) -/

/-- At the armed count every counter latches into its shadow (R321), those of cores on which no itinerary has departed
included. -/
def execTriggerLatch (x : Nat) (s : State) : Out :=
  .next (if s.trigger = some x then
      { s with cores := s.cores.map (fun y => (y.1, { y.2 with shadows := y.2.counters })),
               devs := s.devs.map (fun y => (y.1, { y.2 with selfShadow := y.2.selfHeld })),
               groupShadow := some (s.now, s.groupHeld), trigger := none }
    else s)

/-- A group hold begins on every member (R84); its spoor record names no core (R325). -/
def execGroupHold (start ticks extra : Nat) (cause : HoldCause) (s : State) : Out :=
  let hold : Hold := { start := start, ticks := min (max ticks 1) 65536, extra := min (max extra 1) 15, cause := cause }
  let s := { s with holds := s.holds ++ [hold] }
  .next ((List.range s.size).foldl (fun s d =>
    s.spoorDev d .drover 5 (BitVec.ofNat 128 (hold.extra + hold.ticks % 2 ^ 16 * 2 ^ 16))) s)

/-- An itinerary runs on a device. -/
def State.runsOn (s : State) (d : Nat) : Bool :=
  s.runs.any (fun x => x.2.st == .running && x.2.members.any (fun m => m.1 == d))

/-- The pace window of a device reaches 2^22 counts, unless a pace has restarted it (R263): pace loss where an itinerary runs
there, while a device on which none runs paces itself. DESIGN CHOICE: it does so here, at the end of its window (log 119). -/
def execPaceLoss (s : State) : Out :=
  let d := s.cur.word.id.dev
  let due := (s.dev d).paceFrom + 2 ^ 22
  .next (if s.now < due then s.schedDev due phControl d .paceLoss
    else if s.runsOn d then (s.deviceFault d 0x0C .drover 0).schedDev (s.now + 2 ^ 22) phControl d .paceLoss
    else (s.paces d).restartPace d)

end Sys2Proof.Machine
end

