-- ==== Sys2Proof/Machine/Vector.lean ====
section
/-! DEFINITION. The vector engine (R177–R203). -/

namespace Sys2Proof.Machine

/-! ## Sources, latches, banks (R179, R180, R183) -/

/-- A source field: whether the word reads it, its hold bit, its value, and the latch that serves it. -/
structure VSrc where
  read : Bool
  held : Bool
  code : Nat
  latch : Option Nat

/-- What reading a source gives: the value, its checks, and the core with the latch filled and the queue popped. -/
structure VGot where
  tile : Tile
  chks : List Check
  core : Core

/-- A value read into a field's latch (R179). -/
def Core.latched (c : Core) (l : Option Nat) (x : Tile) : Core :=
  match l with
  | none => c
  | some i => { c with latches := vset c.latches i x }

/-- A source is read (R179, R180, R310). -/
def VSrc.get (x : VSrc) (now : Nat) (c : Core) : VGot :=
  if !x.read then ⟨tileZero, [], c⟩
  else if x.held then
    let t := vget tileZero c.latches (x.latch.getD 0)
    ⟨t, [chk t.poison 0x42 (unitDetail 2 (x.latch.getD 0))], c⟩
  else if x.code < 48 then
    let t := vget tileZero c.t x.code
    ⟨t, [leaseChk c now 5 x.code x.code, chk t.poison 0x42 (unitDetail 2 x.code)], c.latched x.latch t⟩
  else
    let q := x.code - 48
    let t := ((c.readyHead now false q).map (·.tile)).getD tileZero
    ⟨t, [popChk c now false q], (c.popped false q).latched x.latch t⟩

/-- The registers that a source reads. -/
def VSrc.regs (x : VSrc) : List Nat := if x.read && !x.held && x.code < 48 then [x.code] else []

/-- The extra read ticks e of a list of register reads (R183). -/
def extraTicks (regs : List Nat) : Nat :=
  (List.range 6).foldl (fun m b => max m (regs.eraseDups.filter (fun r => r % 6 == b)).length) 0 - 1

/-! ## A word of VX (R182–R186) -/

/-- A destination: a tile register, a result queue, a lane mask, or nothing. -/
inductive VDst where
  | tile (i : Nat)
  | queue (o : Nat)
  | mask (m : Nat)
  | nothing
  deriving DecidableEq, Repr

/-- The destination that a vd field names (R42). -/
def vdst (d : BitVec 6) : VDst := if d.toNat < 48 then .tile d.toNat else .queue (d.toNat - 56)

/-- A kind of word: the fields it reads, whether it reads vd too (vbmm), whether its mask guards the write (R127), λ and
O (R186). -/
structure VForm where
  a : Bool := true
  b : Bool := false
  c : Bool := false
  acc : Bool := false
  guarded : Bool := true
  lam : Nat := 6
  occ : Nat := 4

/-- What a word computes with: VSHAPE, its lanes, the destination and vc as they stood, its three sources. -/
structure VEnv where
  rl : Nat
  lanes : Lanes
  old : Tile
  oldC : Tile
  a : Tile
  b : Tile
  c : Tile

/-- What a word computes: its image, a second image (vcvtef), a mask (compares), flags, and the first NaN. `keeps` and
`keepsSecond` say that part of the old register stands in the image, so that poison of the register stays (R310). -/
structure VRes where
  image : Image := 0
  second : Option Image := none
  keeps : Bool := false
  keepsSecond : Bool := false
  lanes : Lanes := 0
  flags : BitVec 5 := 0
  nan : Option (Nat × Nat × Nat) := none

/-- m[i]; m0 reads all true (R178). -/
def Core.rm (c : Core) (i : Nat) : Lanes := if i = 0 then BitVec.allOnes 4096 else vget 0 c.m i

/-- The registers that a word writes. -/
def vxWrites (dst : VDst) (second : Option Nat) : List Nat :=
  (match dst with | .tile i => [i] | _ => []) ++ second.toList

/-- The lease checks of a destination, and of the mask, which a word reads: m0 where it names no other (R77, R185). DEDUCED: a
word under m0 reads it, so a lease of m0 meets it (log 117). -/
def vxLeaseChks (c : Core) (now : Nat) (dst : VDst) (second : Option Nat) (m : Nat) : List Check :=
  (vxWrites dst second).map (fun i => leaseChk c now 5 i i) ++
    (match dst with
      | .mask i => [leaseChk c now 6 i i]
      | _ => []) ++
    [leaseChk c now 6 m m]

/-- A guarded destination of a word under a mask other than m0 has the result's tag or NONE (R127). -/
def guardChk (guarded : Bool) (m : Nat) (old : Tile) (tag : Tag) : Check :=
  chk (guarded && m != 0 && old.tag != .none && old.tag != tag) 0x21 0

/-- The leases of a word: its destination registers and mask, m0 among them, which no write changes (R185). DEDUCED: a push and
vkac write none (log 117). -/
def State.vxLeases (s : State) (dst : VDst) (second : Option Nat) (lam : Nat) : State :=
  let s := (vxWrites dst second).foldl (fun s i => s.lease 5 i i lam) s
  match dst with
  | .mask i => s.lease 6 i i lam
  | _ => s

/-- VX holds its stream: O, and K = O + e (R184). -/
def State.occupies (s : State) (occ hold : Nat) : State := s.modMine (fun st => { st with occ := occ, hold := hold })

/-- DETAIL of a first NaN (R307). -/
def nanDetail (k : Nat × Nat × Nat) : BitVec 256 := BitVec.ofNat 256 (k.1 + k.2.1 * 2 ^ 32 + k.2.2 * 2 ^ 64)

/-- What a word writes at ρ − 1. A tile marked as poisoned keeps the poison of its register (R310). -/
def vxWrite (dst : VDst) (second : Option Nat) (tag : Tag) (r : VRes) : VxWrite :=
  let x : Tile := { data := r.image, tag := tag, poison := r.keeps }
  let y := match second, r.second with
    | some i, some d => [(i, { data := d, tag := .f32, poison := r.keepsSecond : Tile })]
    | _, _ => []
  match dst with
  | .tile i => { tiles := (i, x) :: y, mask := none, push := none, flags := r.flags }
  | .queue o => { tiles := y, mask := none, push := some (o, { x with poison := false }), flags := r.flags }
  | .mask m => { tiles := [], mask := some (m, r.lanes), push := none, flags := r.flags }
  | .nothing => { tiles := [], mask := none, push := none, flags := r.flags }

/-- The result of a word in flight: its writes at ρ − 1, or its first NaN at ρ (R144, R185). -/
def State.vxResult (s : State) (rho : Nat) (w : VxWrite) (nan : Option (Nat × Nat × Nat)) : State :=
  match nan with
  | none => s.sched (rho - 1) phResult (.leasedResult s.cur.word (.vx w))
  | some k => s.sched rho phControl (.leasedResult s.cur.word (.fault 0x20 (nanDetail k)))

/-- The environment of a word, and the core after its reads. -/
structure VStart where
  env : VEnv
  chks : List Check
  core : Core
  e : Nat

/-- The sources of a word are read in the order va, vb, vc (R180). -/
def Core.vxStart (c : Core) (now : Nat) (k : VForm) (dst : VDst) (second : Option Nat) (va vb : Nat) (t : VTail) :
    VStart :=
  let fa : VSrc := ⟨k.a, t.hA, va, some 0⟩
  let fb : VSrc := ⟨k.b, t.hB, vb, some 1⟩
  let fc : VSrc := ⟨k.c, t.hC, t.vc.toNat, some 2⟩
  let ga := fa.get now c
  let gb := fb.get now ga.core
  let gc := fc.get now gb.core
  let vd := match dst with | .tile i => [i] | _ => []
  let old := (vd.head?.map (vget tileZero c.t)).getD tileZero
  let regs := fa.regs ++ fb.regs ++ fc.regs ++ (if k.acc then vd else [])
  { env := { rl := c.rl.toNat, lanes := c.rm t.m.toNat, old := old,
             oldC := (second.map (vget tileZero c.t)).getD tileZero, a := ga.tile, b := gb.tile, c := gc.tile },
    chks := ga.chks ++ gb.chks ++ gc.chks ++
      [chk (k.acc && old.poison) 0x42 (unitDetail 2 (vd.headD 0))],
    core := gc.core, e := extraTicks regs }

/-- A word of VX: its checks, what it reads at issue, and its result (R182–R185). `tag` is the tag of its result and
`chks` what its own description checks. -/
def State.vx (s : State) (k : VForm) (t : VTail) (dst : VDst) (second : Option Nat) (va vb : Nat)
    (tag : VEnv → Tag) (chks : VEnv → List Check) (f : VEnv → VRes) : Out :=
  let c := s.me
  let x := c.vxStart s.now k dst second va vb t
  let rho := s.now + x.e + k.lam
  let banks := (vxWrites dst second).map (fun i => (i % 6, rho - 1))
  s.word
    (x.chks ++ vxLeaseChks c s.now dst second t.m.toNat ++ chks x.env ++
      [guardChk k.guarded t.m.toNat x.env.old (tag x.env), guardChk second.isSome t.m.toNat x.env.oldC .f32,
       chk (banks.any c.bankWrites.contains) 0x15 0])
    (fun s =>
      let r := f x.env
      let s := s.modMe (fun _ => { x.core with
        bankWrites := banks ++ x.core.bankWrites.filter (fun b => s.now ≤ b.2) })
      let s := (s.occupies k.occ (k.occ + x.e)).vxLeases dst second (x.e + k.lam)
      s.vxResult rho (vxWrite dst second (tag x.env) r) r.nan)

/-- The tail of a word, or its defaults (R41). -/
def tailOr (d : BitVec 6) (t : Option VTail) : VTail :=
  t.getD { vc := d, m := 0, rm := 0, hA := false, hB := false, hC := false, nv := false, x := 0 }

/-! ## Checks of tags (R126) -/

/-- A source has the tag of a format. -/
def fmtChk (want : Tag) (x : Tile) : Check := chk (x.tag != want || want == .none) 0x21 0

/-- A source has elements of a width. -/
def widthChk (w : Nat) (x : Tile) : Check := chk (widthOf x.tag != w) 0x21 0

/-- The row length is no shorter than an element (R177). -/
def shapeChk (w : Nat) (e : VEnv) : Check := chk (decide (2 ^ e.rl < w)) 0x22 0

/-- COLS of VSHAPE for a width (R177). -/
def colsOf (rl w : Nat) : Nat := max 1 (2 ^ rl / w)

/-- The coordinates of an element (R143). -/
def coordsOf (rl w k i : Nat) : Nat × Nat × Nat := (k, i / colsOf rl w, i % colsOf rl w)

/-- Lexicographic order of coordinates (R143). -/
def coordLt (a b : Nat × Nat × Nat) : Bool :=
  if a.1 ≠ b.1 then a.1 < b.1 else if a.2.1 ≠ b.2.1 then a.2.1 < b.2.1 else a.2.2 < b.2.2

/-- The first of the NaNs. -/
def firstNan (xs : List (Nat × Nat × Nat)) : Option (Nat × Nat × Nat) :=
  xs.foldl (fun m x => match m with
    | none => some x
    | some y => if coordLt x y then some x else some y) none

/-! ## Element-wise words (R127, R188, R191) -/

/-- The elements of an old destination that lanes under a false mask keep: zero bits unless it has the result's tag
(R127, R193). -/
def keptElems (w : Nat) (old : Tile) (tag : Tag) : List Nat :=
  if old.tag = tag then elems w old.data else List.replicate (4096 / w) 0

/-- Some of the n elements from i on keep their old value: their lanes are false and the old tag is the result's (R127). -/
def someKept (lanes : Lanes) (old : Tile) (tag : Tag) (i n : Nat) : Bool :=
  old.tag == tag && (List.range n).any (fun j => !lanes.getLsbD (i + j))

/-- One result for each element, numbered from `start`: the elements under the mask written, the others kept; flags
joined; NaNs located. -/
def laneRes (lanes : Lanes) (at' : Nat → Nat × Nat × Nat) : Nat → List Nat → List Res → List Nat × BitVec 5 ×
    List (Nat × Nat × Nat)
  | _, _, [] => ([], 0, [])
  | i, old, r :: rs =>
    let o := old.headD 0
    let x := laneRes lanes at' (i + 1) old.tail rs
    if lanes.getLsbD i then
      (r.bits :: x.1, r.flags ||| x.2.1, if r.nan then at' i :: x.2.2 else x.2.2)
    else (o :: x.1, x.2.1, x.2.2)

/-- The result of an element-wise word of element width w. -/
def laneWise (e : VEnv) (w : Nat) (tag : Tag) (rs : List Res) : VRes :=
  let x := laneRes e.lanes (coordsOf e.rl w 0) 0 (keptElems w e.old tag) rs
  { image := ofElems w x.1, keeps := someKept e.lanes e.old tag 0 (4096 / w), flags := x.2.1, nan := firstNan x.2.2 }

/-- Results from one, two or three sources. -/
def zip3 {α : Type} (f : Nat → Nat → Nat → α) : List Nat → List Nat → List Nat → List α
  | a :: as, b :: bs, c :: cs => f a b c :: zip3 f as bs cs
  | _, _, _ => []

/-- An element-wise float word on values (R188). -/
def floatWord (k : VForm) (f : BitVec 3) (d a b : BitVec 6) (t : Option VTail) (op : RMode → Val → Val → Val → Val)
    (s : State) : Out :=
  let t := tailOr d t
  let tag := floatTag f.toNat
  let fm := (fmtOf tag).getD fF32
  let w := widthOf tag
  let rm := rmodeOf t.rm
  let one (x y z : Nat) : Res := roundVal fm rm t.nv (op rm (valOf fm x) (valOf fm y) (valOf fm z))
  let srcs (e : VEnv) : List Check :=
    [fmtChk tag e.a] ++ (if k.b then [fmtChk tag e.b] else []) ++ (if k.c then [fmtChk tag e.c] else [])
  s.vx k t (vdst d) none a.toNat b.toNat (fun _ => tag) srcs
    (fun e => laneWise e w tag (zip3 one (elems w e.a.data) (elems w e.b.data) (elems w e.c.data)))

/-- vadd. -/
def execVadd (_g : BitVec 4) (f : BitVec 3) (d a b : BitVec 6) (t : Option VTail) (s : State) : Out :=
  floatWord { b := true } f d a b t (fun rm x y _ => addV rm x y) s
/-- vsub. -/
def execVsub (_g : BitVec 4) (f : BitVec 3) (d a b : BitVec 6) (t : Option VTail) (s : State) : Out :=
  floatWord { b := true } f d a b t (fun rm x y _ => addV rm x (negV y)) s
/-- vmul. -/
def execVmul (_g : BitVec 4) (f : BitVec 3) (d a b : BitVec 6) (t : Option VTail) (s : State) : Out :=
  floatWord { b := true } f d a b t (fun _ x y _ => mulV x y) s
/-- vfma. -/
def execVfma (_g : BitVec 4) (f : BitVec 3) (d a b : BitVec 6) (t : Option VTail) (s : State) : Out :=
  floatWord { b := true, c := true } f d a b t (fun rm x y z => addV rm (mulV x y) z) s
/-- vfms. -/
def execVfms (_g : BitVec 4) (f : BitVec 3) (d a b : BitVec 6) (t : Option VTail) (s : State) : Out :=
  floatWord { b := true, c := true } f d a b t (fun rm x y z => addV rm (mulV x y) (negV z)) s
/-- vfnma. -/
def execVfnma (_g : BitVec 4) (f : BitVec 3) (d a b : BitVec 6) (t : Option VTail) (s : State) : Out :=
  floatWord { b := true, c := true } f d a b t (fun rm x y z => addV rm (negV (mulV x y)) z) s
/-- vmax. -/
def execVmax (_g : BitVec 4) (f : BitVec 3) (d a b : BitVec 6) (t : Option VTail) (s : State) : Out :=
  floatWord { b := true } f d a b t (fun _ x y _ => maxV x y) s
/-- vmin. -/
def execVmin (_g : BitVec 4) (f : BitVec 3) (d a b : BitVec 6) (t : Option VTail) (s : State) : Out :=
  floatWord { b := true } f d a b t (fun _ x y _ => minV x y) s
/-- vabs. -/
def execVabs (_g : BitVec 4) (f : BitVec 3) (d a : BitVec 6) (t : Option VTail) (s : State) : Out :=
  floatWord {} f d a 0 t (fun _ x _ _ => absV x) s
/-- vneg. -/
def execVneg (_g : BitVec 4) (f : BitVec 3) (d a : BitVec 6) (t : Option VTail) (s : State) : Out :=
  floatWord {} f d a 0 t (fun _ x _ _ => negV x) s

/-! ## Compares (R189, R192) -/

/-- A condition of the x field of a compare holds of an order; unordered values satisfy ne alone (R189). -/
def vcondHolds (c : Nat) (o : Option Ordering) : Bool :=
  match c, o with
  | 0, o => o == some .eq
  | 1, o => o != some .eq
  | 2, o => o == some .lt
  | 3, o => o == some .lt || o == some .eq
  | 4, o => o == some .gt
  | _, o => o == some .gt || o == some .eq

/-- The lanes where a compare holds under the mask, from element i on, and the flags of those elements (log 38). -/
def cmpLanes (lanes : Lanes) (test : Nat → Nat → Bool × Bool) : Nat → List Nat → List Nat → Nat × BitVec 5
  | i, a :: as, b :: bs =>
    let r := test a b
    let x := cmpLanes lanes test (i + 1) as bs
    if lanes.getLsbD i then (2 * x.1 + r.1.toNat, if r.2 then x.2 ||| flInvalid else x.2) else (2 * x.1, x.2)
  | _, _, _ => (0, 0)

/-- A compare: `test` gives the condition and whether an operand is a signalling NaN. -/
def compareWord (tag : Tag) (d : BitVec 3) (a b : BitVec 6) (t : VTail) (test : Nat → Nat → Bool × Bool) (s : State) :
    Out :=
  let w := widthOf tag
  s.vx { b := true, guarded := false, lam := 5 } t (.mask d.toNat) none a.toNat b.toNat (fun _ => tag)
    (fun e => [fmtChk tag e.a, fmtChk tag e.b])
    (fun e =>
      let r := cmpLanes e.lanes test 0 (elems w e.a.data) (elems w e.b.data)
      { lanes := BitVec.ofNat 4096 r.1, flags := r.2 })

/-- vcmp.c. -/
def execVcmp (_g : BitVec 4) (f d : BitVec 3) (a b : BitVec 6) (t : VTail) (s : State) : Out :=
  let tag := floatTag f.toNat
  let fm := (fmtOf tag).getD fF32
  compareWord tag d a b t (fun x y =>
    (vcondHolds (t.x.toNat % 8) (cmpV (valOf fm x) (valOf fm y)), isSNaN (valOf fm x) || isSNaN (valOf fm y))) s

/-- vicmp.c. -/
def execVicmp (_g : BitVec 4) (f d : BitVec 3) (a b : BitVec 6) (t : VTail) (s : State) : Out :=
  let tag := intTag f.toNat
  compareWord tag d a b t (fun x y =>
    (vcondHolds (t.x.toNat % 8) (some (compare (intOf tag x) (intOf tag y))), false)) s

/-! ## Moves, selects, broadcasts (R190) -/

/-- The element width of a word with two forms, and the check of a source (R190). -/
def formWidth (f : BitVec 3) (x : BitVec 6) : Nat :=
  if x.getLsbD 5 then 4 / 2 ^ f.toNat else widthOf (floatTag f.toNat)

/-- The check of a source of a word with two forms. -/
def formChk (f : BitVec 3) (x : BitVec 6) (y : Tile) : Check :=
  if x.getLsbD 5 then widthChk (4 / 2 ^ f.toNat) y else fmtChk (floatTag f.toNat) y

/-- A copied element: no flag, no NaN (R142). -/
def copied (x : Nat) : Res := ⟨x, 0, false⟩

/-- vmov.s. -/
def execVmov (_g : BitVec 4) (f : BitVec 3) (d a : BitVec 6) (t : Option VTail) (s : State) : Out :=
  let t := tailOr d t
  let w := formWidth f t.x
  s.vx {} t (vdst d) none a.toNat 0 (·.a.tag) (fun e => [formChk f t.x e.a])
    (fun e => laneWise e w e.a.tag ((elems w e.a.data).map copied))

/-- vsel.s: the mask selects, and every element is written. -/
def execVsel (_g : BitVec 4) (f : BitVec 3) (d a b : BitVec 6) (t : Option VTail) (s : State) : Out :=
  let t := tailOr d t
  let w := formWidth f t.x
  s.vx { b := true, guarded := false } t (vdst d) none a.toNat b.toNat (·.a.tag)
    (fun e => [formChk f t.x e.a, formChk f t.x e.b])
    (fun e => { image := ofElems w (laneRes e.lanes (coordsOf e.rl w 0) 0 (elems w e.b.data)
      ((elems w e.a.data).map copied)).1 })

/-- vbcast.s: column 0 along each row, or row 0 down each column. -/
def execVbcast (_g : BitVec 4) (f : BitVec 3) (d a : BitVec 6) (t : Option VTail) (s : State) : Out :=
  let t := tailOr d t
  let w := formWidth f t.x
  s.vx {} t (vdst d) none a.toNat 0 (·.a.tag) (fun e => [formChk f t.x e.a, shapeChk w e])
    (fun e =>
      let xs := (elems w e.a.data).toArray
      let cols := colsOf e.rl w
      laneWise e w e.a.tag ((List.range xs.size).map (fun i =>
        copied (xs.getD (if t.x.getLsbD 4 then i % cols else i / cols * cols) 0))))

/-! ## Integer words (R191) -/

/-- An integer word: one element from three, with the flags it sets. -/
def intWord (k : VForm) (f : BitVec 3) (d a b : BitVec 6) (t : Option VTail) (op : Tag → Bool → Nat → Nat → Nat → Res)
    (s : State) : Out :=
  let t := tailOr d t
  let tag := intTag f.toNat
  let w := widthOf tag
  let srcs (e : VEnv) : List Check :=
    [fmtChk tag e.a] ++ (if k.b then [fmtChk tag e.b] else []) ++ (if k.c then [fmtChk tag e.c] else [])
  s.vx { k with lam := 5 } t (vdst d) none a.toNat b.toNat (fun _ => tag) srcs
    (fun e => laneWise e w tag (zip3 (op tag (t.x.getLsbD 0)) (elems w e.a.data) (elems w e.b.data) (elems w e.c.data)))

/-- An exact integer written: wrapped, or clamped with `sat` (R191). -/
def intRes (tag : Tag) (sat : Bool) (i : Int) : Res :=
  let n := 8 * widthOf tag
  if sat then
    let r := clampInt (intRange tag) i
    ⟨intBits n r.1, r.2, false⟩
  else ⟨intBits n i, 0, false⟩

/-- An arithmetic integer word. -/
def arithWord (k : VForm) (f : BitVec 3) (d a b : BitVec 6) (t : Option VTail) (op : Int → Int → Int → Int) (s : State) :
    Out :=
  intWord k f d a b t (fun tag sat x y z => intRes tag sat (op (intOf tag x) (intOf tag y) (intOf tag z))) s

/-- A word on the bits of an element of n bits. -/
def bitWord (k : VForm) (f : BitVec 3) (d a b : BitVec 6) (t : Option VTail) (op : Tag → Nat → Nat → Nat → Nat)
    (s : State) : Out :=
  intWord k f d a b t (fun tag _ x y _ => copied (op tag (8 * widthOf tag) x y % 2 ^ (8 * widthOf tag))) s

/-- viadd. -/
def execViadd (_g : BitVec 4) (f : BitVec 3) (d a b : BitVec 6) (t : Option VTail) (s : State) : Out :=
  arithWord { b := true } f d a b t (fun x y _ => x + y) s
/-- visub. -/
def execVisub (_g : BitVec 4) (f : BitVec 3) (d a b : BitVec 6) (t : Option VTail) (s : State) : Out :=
  arithWord { b := true } f d a b t (fun x y _ => x - y) s
/-- vimul. -/
def execVimul (_g : BitVec 4) (f : BitVec 3) (d a b : BitVec 6) (t : Option VTail) (s : State) : Out :=
  arithWord { b := true } f d a b t (fun x y _ => x * y) s
/-- vimac. -/
def execVimac (_g : BitVec 4) (f : BitVec 3) (d a b : BitVec 6) (t : Option VTail) (s : State) : Out :=
  arithWord { b := true, c := true } f d a b t (fun x y z => x * y + z) s
/-- vand. -/
def execVand (_g : BitVec 4) (f : BitVec 3) (d a b : BitVec 6) (t : Option VTail) (s : State) : Out :=
  bitWord { b := true } f d a b t (fun _ _ x y => x &&& y) s
/-- vor. -/
def execVor (_g : BitVec 4) (f : BitVec 3) (d a b : BitVec 6) (t : Option VTail) (s : State) : Out :=
  bitWord { b := true } f d a b t (fun _ _ x y => x ||| y) s
/-- vxor. -/
def execVxor (_g : BitVec 4) (f : BitVec 3) (d a b : BitVec 6) (t : Option VTail) (s : State) : Out :=
  bitWord { b := true } f d a b t (fun _ _ x y => x ^^^ y) s
/-- vnot. -/
def execVnot (_g : BitVec 4) (f : BitVec 3) (d a : BitVec 6) (t : Option VTail) (s : State) : Out :=
  bitWord {} f d a 0 t (fun _ n x _ => 2 ^ n - 1 - x) s
/-- vshl. -/
def execVshl (_g : BitVec 4) (f : BitVec 3) (d a b : BitVec 6) (t : Option VTail) (s : State) : Out :=
  bitWord { b := true } f d a b t (fun _ n x u => if n ≤ u then 0 else x <<< u) s
/-- vshr. -/
def execVshr (_g : BitVec 4) (f : BitVec 3) (d a b : BitVec 6) (t : Option VTail) (s : State) : Out :=
  bitWord { b := true } f d a b t (fun _ n x u => if n ≤ u then 0 else x >>> u) s
/-- vsra. -/
def execVsra (_g : BitVec 4) (f : BitVec 3) (d a b : BitVec 6) (t : Option VTail) (s : State) : Out :=
  bitWord { b := true } f d a b t (fun tag n x u => intBits n (intOf tag x >>> min u n)) s
/-- vimax. -/
def execVimax (_g : BitVec 4) (f : BitVec 3) (d a b : BitVec 6) (t : Option VTail) (s : State) : Out :=
  bitWord { b := true } f d a b t (fun tag _ x y => if intOf tag x < intOf tag y then y else x) s
/-- vimin. -/
def execVimin (_g : BitVec 4) (f : BitVec 3) (d a b : BitVec 6) (t : Option VTail) (s : State) : Out :=
  bitWord { b := true } f d a b t (fun tag _ x y => if intOf tag y < intOf tag x then y else x) s

/-! ## Conversions (R131, R132, R193) -/

/-- The source format of a conversion. -/
def cvtSrc (f : BitVec 3) (x : BitVec 6) : Tag := if x.getLsbD 5 then intTag f.toNat else floatTag f.toNat

/-- The destination format of a conversion. -/
def cvtDst (x : BitVec 6) : Tag := if x.getLsbD 4 then intTag (x.toNat % 8) else floatTag (x.toNat % 8)

/-- Elements n, n + 1, … written over old ones under their mask bits. -/
def overlay (lanes : Lanes) (old : List Nat) (n : Nat) (rs : List Res) : List Nat :=
  old.take n ++ (laneRes lanes (fun i => (0, 0, i)) n (old.drop n) rs).1 ++ old.drop (n + rs.length)

/-- vcvt.d.s vd, va, part=ps:pd. -/
def execVcvt (_g : BitVec 4) (f : BitVec 3) (d a b : BitVec 6) (t : VTail) (s : State) : Out :=
  let src := cvtSrc f t.x
  let dst := cvtDst t.x
  let ws := widthOf src
  let wd := widthOf dst
  let n := 4096 / max ws wd
  let ps := b.toNat / 8
  let pd := b.toNat % 8
  s.vx {} t (vdst d) none a.toNat 0 (fun _ => dst) (fun e => [fmtChk src e.a])
    (fun e =>
      let rs := (((elems ws e.a.data).drop (ps * n)).take n).map (convertElem src dst (rmodeOf t.rm) t.nv)
      let old := keptElems wd e.old dst
      let r := laneRes e.lanes (coordsOf e.rl wd 0) (pd * n) (old.drop (pd * n)) rs
      { image := ofElems wd (overlay e.lanes old (pd * n) rs),
        keeps := (e.old.tag == dst && decide (n < 4096 / wd)) || someKept e.lanes e.old dst (pd * n) n,
        flags := r.2.1, nan := firstNan r.2.2 })

/-- q and r of vcvtef for one element (R132). -/
def errorFeedback (src dst : Tag) (rm : RMode) (nv : Bool) (x : Nat) : Res × Res :=
  let q := convertElem src dst rm nv x
  let r := rne fF32 (addV .rne (elemVal src x) (negV (elemVal dst q.bits)))
  (q, { r with flags := r.flags &&& flInexact })

/-- vcvtef.d.s vd, vc, va, part=ps:pd. DESIGN CHOICE: the first NaN has the least coordinates of both destinations (log 140). -/
def execVcvtef (_g : BitVec 4) (f : BitVec 3) (d a b : BitVec 6) (t : VTail) (s : State) : Out :=
  let src := cvtSrc f t.x
  let dst := cvtDst t.x
  let ws := widthOf src
  let wd := widthOf dst
  let n := 1024
  let ps := b.toNat / 8
  let pd := b.toNat % 8
  s.vx {} t (vdst d) (some t.vc.toNat) a.toNat 0 (fun _ => dst) (fun e => [fmtChk src e.a])
    (fun e =>
      let rs := (((elems ws e.a.data).drop (ps * n)).take n).map (errorFeedback src dst (rmodeOf t.rm) t.nv)
      let old := keptElems wd e.old dst
      let q := laneRes e.lanes (coordsOf e.rl wd 0) (pd * n) (old.drop (pd * n)) (rs.map (·.1))
      let r := laneRes (e.lanes >>> (pd * n)) (coordsOf e.rl 4 0) 0 (keptElems 4 e.oldC .f32) (rs.map (·.2))
      { image := ofElems wd (overlay e.lanes old (pd * n) (rs.map (·.1))), second := some (ofElems 4 r.1),
        keeps := (e.old.tag == dst && decide (n < 4096 / wd)) || someKept e.lanes e.old dst (pd * n) n,
        keepsSecond := someKept e.lanes e.oldC .f32 (pd * n) n,
        flags := q.2.1 ||| r.2.1, nan := firstNan (q.2.2 ++ r.2.2) })

/-! ## Reductions (R136, R194) -/

/-- One level of the tree, with the flags and whether a combine gave a NaN. -/
def reduceLevel (op : Nat → Nat → Res) : List Nat → List Nat × BitVec 5 × Bool
  | a :: b :: r =>
    let x := op a b
    let y := reduceLevel op r
    (x.bits :: y.1, x.flags ||| y.2.1, x.nan || y.2.2)
  | l => (l, 0, false)

/-- The tree of R136 from a level on: the last element, flags, the first level that gave a NaN. -/
def reduceTree (op : Nat → Nat → Res) : Nat → Nat → List Nat → Option Nat × BitVec 5 × Option Nat
  | 0, _, l => (l.head?, 0, none)
  | fuel + 1, lvl, l =>
    if l.length ≤ 1 then (l.head?, 0, none)
    else
      let x := reduceLevel op l
      let y := reduceTree op fuel (lvl + 1) x.1
      (y.1, x.2.1 ||| y.2.1, if x.2.2 then some lvl else y.2.2)

/-- One reduction: its bits, flags, and the k-step of a NaN (R142, R143). -/
def reduceOne (fm : Fmt) (empty : Res) (op : Nat → Nat → Res) (l : List Nat) : Nat × BitVec 5 × Option Nat :=
  match l with
  | [] => (empty.bits, empty.flags, if empty.nan then some 0 else none)
  | l =>
    let r := reduceTree op 13 1 l
    let bits := r.1.getD 0
    (bits, r.2.1, if isNaN (valOf fm bits) then some (r.2.2.getD 0) else none)

/-- A reduction word: by rows or by columns. -/
def reduceWord (f : BitVec 3) (d a : BitVec 6) (t : Option VTail) (byRow : Bool) (empty : Val)
    (op : RMode → Val → Val → Val) (s : State) : Out :=
  let t := tailOr d t
  let tag := floatTag f.toNat
  let fm := (fmtOf tag).getD fF32
  let w := widthOf tag
  let rm := rmodeOf t.rm
  let comb (x y : Nat) : Res := roundVal fm rm t.nv (op rm (valOf fm x) (valOf fm y))
  s.vx { guarded := false, lam := 10 } t (vdst d) none a.toNat 0 (fun _ => tag) (fun e => [fmtChk tag e.a, shapeChk w e])
    (fun e =>
      let xs := (elems w e.a.data).toArray
      let cols := colsOf e.rl w
      let rows := xs.size / cols
      let line (i : Nat) : List Nat :=
        let idx := if byRow then (List.range cols).map (i * cols + ·) else (List.range rows).map (· * cols + i)
        (idx.filter (fun j => e.lanes.getLsbD j)).map (fun j => xs.getD j 0)
      let rs := (List.range (if byRow then rows else cols)).map (fun i =>
        (i, reduceOne fm (roundVal fm rm t.nv empty) comb (line i)))
      { image := if byRow then ofElems w (rs.flatMap (fun r => r.2.1 :: List.replicate (cols - 1) 0))
          else ofElems w (rs.map (·.2.1)),
        flags := rs.foldl (fun m r => m ||| r.2.2.1) 0,
        nan := firstNan (rs.filterMap (fun r => r.2.2.2.map (fun k => if byRow then (k, r.1, 0) else (k, 0, r.1)))) })

/-- vrsum. -/
def execVrsum (_g : BitVec 4) (f : BitVec 3) (d a : BitVec 6) (t : Option VTail) (s : State) : Out :=
  reduceWord f d a t true (.fin false 0 0) addV s
/-- vcsum. -/
def execVcsum (_g : BitVec 4) (f : BitVec 3) (d a : BitVec 6) (t : Option VTail) (s : State) : Out :=
  reduceWord f d a t false (.fin false 0 0) addV s
/-- vrmax. -/
def execVrmax (_g : BitVec 4) (f : BitVec 3) (d a : BitVec 6) (t : Option VTail) (s : State) : Out :=
  reduceWord f d a t true (.inf true) (fun _ x y => maxV x y) s
/-- vcmax. -/
def execVcmax (_g : BitVec 4) (f : BitVec 3) (d a : BitVec 6) (t : Option VTail) (s : State) : Out :=
  reduceWord f d a t false (.inf true) (fun _ x y => maxV x y) s

/-! ## Special functions (R195) -/

/-- A special-function word: λ, the function. -/
def specialWord (lam : Nat) (fn : SpecialFn) (f : BitVec 3) (d a : BitVec 6) (t : Option VTail) (s : State) : Out :=
  let t := tailOr d t
  let tag := floatTag f.toNat
  let fm := (fmtOf tag).getD fF32
  let w := widthOf tag
  s.vx { lam := lam, occ := 8 } t (vdst d) none a.toNat 0 (fun _ => tag) (fun e => [fmtChk tag e.a])
    (fun e => laneWise e w tag ((elems w e.a.data).map (special fn fm)))

/-- vexp2. -/
def execVexp2 (_g : BitVec 4) (f : BitVec 3) (d a : BitVec 6) (t : Option VTail) (s : State) : Out :=
  specialWord 14 .exp2 f d a t s
/-- vlog2. -/
def execVlog2 (_g : BitVec 4) (f : BitVec 3) (d a : BitVec 6) (t : Option VTail) (s : State) : Out :=
  specialWord 14 .log2 f d a t s
/-- vrcp. -/
def execVrcp (_g : BitVec 4) (f : BitVec 3) (d a : BitVec 6) (t : Option VTail) (s : State) : Out :=
  specialWord 14 .rcp f d a t s
/-- vrsqrt. -/
def execVrsqrt (_g : BitVec 4) (f : BitVec 3) (d a : BitVec 6) (t : Option VTail) (s : State) : Out :=
  specialWord 14 .rsqrt f d a t s
/-- vexp. -/
def execVexp (_g : BitVec 4) (f : BitVec 3) (d a : BitVec 6) (t : Option VTail) (s : State) : Out :=
  specialWord 18 .exp f d a t s
/-- vlog. -/
def execVlog (_g : BitVec 4) (f : BitVec 3) (d a : BitVec 6) (t : Option VTail) (s : State) : Out :=
  specialWord 18 .log f d a t s
/-- vtanh. -/
def execVtanh (_g : BitVec 4) (f : BitVec 3) (d a : BitVec 6) (t : Option VTail) (s : State) : Out :=
  specialWord 24 .tanh f d a t s
/-- vsigm. -/
def execVsigm (_g : BitVec 4) (f : BitVec 3) (d a : BitVec 6) (t : Option VTail) (s : State) : Out :=
  specialWord 24 .sigm f d a t s

/-! ## Permutes, transposes, compaction (R196–R198) -/

/-- vperm.s. -/
def execVperm (_g : BitVec 4) (f : BitVec 3) (d a b : BitVec 6) (t : Option VTail) (s : State) : Out :=
  let t := tailOr d t
  let w := 4 / 2 ^ f.toNat
  let itag : Tag := if f = 0 then .i32 else .i16
  s.vx { b := true, lam := 8 } t (vdst d) none a.toNat b.toNat (·.a.tag) (fun e => [widthChk w e.a, fmtChk itag e.b])
    (fun e =>
      let xs := (elems w e.a.data).toArray
      laneWise e w e.a.tag ((elems w e.b.data).map (fun x =>
        let j := intOf itag x
        copied (if 0 ≤ j then xs.getD j.toNat 0 else 0))))

/-- vtrans.s. -/
def execVtrans (_g : BitVec 4) (f : BitVec 3) (d a : BitVec 6) (t : Option VTail) (s : State) : Out :=
  let t := tailOr d t
  let w := 4 / 2 ^ f.toNat
  s.vx { lam := 8 } t (vdst d) none a.toNat 0 (·.a.tag) (fun e => [widthChk w e.a, shapeChk w e])
    (fun e =>
      let xs := (elems w e.a.data).toArray
      laneWise e w e.a.tag ((List.range xs.size).map (fun i =>
        copied (xs.getD (transposeIdx (colsOf e.rl w) xs.size i) 0))))

/-- vpack.s: the selected elements to the front, zero bits behind them. -/
def execVpack (_g : BitVec 4) (f : BitVec 3) (d a : BitVec 6) (t : Option VTail) (s : State) : Out :=
  let t := tailOr d t
  let w := 4 / 2 ^ f.toNat
  s.vx { guarded := false, lam := 8 } t (vdst d) none a.toNat 0 (·.a.tag) (fun e => [widthChk w e.a])
    (fun e =>
      let xs := elems w e.a.data
      { image := ofElems w (((List.range xs.length).zip xs).filterMap (fun x =>
          if e.lanes.getLsbD x.1 then some x.2 else none)) })

/-! ## Batched small matrices (R199) -/

/-- One element of a product of side s: the chain from k on, with flags and the k index of the first NaN. -/
def bmmChain (fm : Fmt) (rm : RMode) : Nat → List (Nat × Nat) → Nat → Nat × BitVec 5 × Option Nat
  | _, [], acc => (acc, 0, none)
  | k, (x, y) :: r, acc =>
    let z := roundVal fm rm false (addV rm (valOf fm acc) (mulV (valOf fm x) (valOf fm y)))
    let q := bmmChain fm rm (k + 1) r z.bits
    (q.1, z.flags ||| q.2.1, if z.nan then some k else q.2.2)

/-- A tag that a vbmm of an element width takes (R199). -/
def bmmTag (f : BitVec 3) (x : Tag) : Bool := if f = 0 then x == .f32 else x == .f16 || x == .bf16

/-- vbmm.s: lengths are checked where their register or entry was not poisoned (R78). -/
def execVbmm (_g : BitVec 4) (f : BitVec 3) (d a b : BitVec 6) (t : VTail) (s : State) : Out :=
  let w := 4 / 2 ^ f.toNat
  let side := 2 ^ (t.x.toNat % 8)
  let area := side * side
  let m := 4096 / w / area
  s.vx { b := true, c := true, acc := true, lam := 4 * side + 4, occ := 4 * side } t (vdst d) none a.toNat b.toNat
    (·.a.tag)
    (fun e => [chk (!bmmTag f e.a.tag || e.b.tag != e.a.tag || e.old.tag != e.a.tag) 0x21 0, fmtChk .u8 e.c,
      chk (!e.c.poison && ((elems 1 e.c.data).take m).any (fun k => decide (side < k))) 0x22 0])
    (fun e =>
      let fm := (fmtOf e.a.tag).getD fF32
      let xs := (elems w e.a.data).toArray
      let ys := (elems w e.b.data).toArray
      let ds := (elems w e.old.data).toArray
      let ks := (elems 1 e.c.data).toArray
      let one (n : Nat) : Nat × (Nat × BitVec 5 × Option Nat) :=
        let base := n / area * area
        let i := n % area / side
        let j := n % side
        let terms := (List.range (ks.getD (n / area) 0)).map (fun k =>
          (xs.getD (base + i * side + k) 0, ys.getD (base + k * side + j) 0))
        (n, if e.lanes.getLsbD n then bmmChain fm (rmodeOf t.rm) 0 terms (ds.getD n 0) else (ds.getD n 0, 0, none))
      let rs := (List.range (4096 / w)).map one
      { image := ofElems w (rs.map (·.2.1)), keeps := someKept e.lanes e.old e.a.tag 0 (4096 / w),
        flags := rs.foldl (fun m r => m ||| r.2.2.1) 0,
        nan := firstNan (rs.filterMap (fun r => r.2.2.2.map (fun k => coordsOf e.rl w k r.1))) })

/-! ## Known answers and the shape (R200, R201) -/

/-- The sum of R200 over an image. -/
def knownAnswer (x : Image) : BitVec 32 :=
  BitVec.ofNat 32 (((List.range 1024).zip (elems 4 x)).foldl (fun acc p => acc + (2 * p.1 + 1) * p.2) 0)

/-- The source of a vkac, which no latch serves. -/
def vkacSrc (a : BitVec 6) : VSrc := ⟨true, false, a.toNat, none⟩

/-- The checks of vkac, all of its head (R200, R203). -/
def Core.vkacChks (c : Core) (now : Nat) (a : BitVec 6) : List Check :=
  let g := (vkacSrc a).get now c
  g.chks ++ [chk (g.tile.tag == .none) 0x21 0]

/-- vkac va, cst. -/
def execVkac (_g : BitVec 4) (a : BitVec 6) (cst : BitVec 32) (s : State) : Out :=
  let g := (vkacSrc a).get s.now s.me
  let c := knownAnswer g.tile.data
  s.word (s.me.vkacChks s.now a) (fun s =>
    let s := (s.modMe (fun _ => g.core)).occupies 4 4
    if c = cst then s else s.sched (s.now + 6) phControl (.leasedResult s.cur.word (.mismatch c cst)))

/-- vshape rl. -/
def execVshape (_g : BitVec 4) (r : BitVec 5) (s : State) : Out :=
  s.word [] (fun s => s.modMe (fun c => { c with rl := r }))

/-- A tile written to a register: an image that keeps part of the register keeps its poison too (R310). -/
def Core.wt (c : Core) (i : Nat) (x : Tile) : Core :=
  { c with t := vset c.t i { x with poison := x.poison && (vget tileZero c.t i).poison } }

/-- The writes of a VX word, or of an MX drain, whose entry has been in its queue from its issue on, at ρ − 1 (R185, R221). An
entry that is pushed here is ready at ρ, and whether the queue has room for it is seen there alone (R165, R180). -/
def performVx (w : WordRef) (x : VxWrite) (s : State) : State :=
  let old := s.coreAt w.id
  let s := s.modCore w.id (fun c =>
    let c := x.tiles.foldl (fun c (p : Nat × Tile) => c.wt p.1 p.2) c
    let c := match x.mask with
      | some (m, v) => if m = 0 then c else { c with m := vset c.m m v }
      | none => c
    if w.eng == .mx then (c.orMx x.flags).noteFlags w (c.newFlags .mx x.flags) else c.orVx x.flags)
  match x.push with
  | some (o, t) => s.enqueue true o ⟨t, s.now + 1, w, old.newFlags w.eng x.flags,
      x.tiles.map (fun p => (p.1, vget tileZero old.t p.1))⟩
  | none => s

end Sys2Proof.Machine
end

