-- ==== Sys2Proof/Machine/Patches.lean ====
section
/-! DEFINITION. Patches (R237–R258). The chain of a tensor is what its log area in HBM holds (R239): a command reads it
there at π and writes it back. -/

namespace Sys2Proof.Machine

/-! ## Tensors, boxes, patches (R238, R241) -/

/-- A tensor as a handle describes it. -/
structure Tensor where
  dims : List Nat
  tag : Tag
  ext : Nat
  base : Nat
  log : Nat
  tid : Nat
  depth : Nat
  frozen : Bool

/-- The tensor of a handle. -/
def tensorOf (h : BitVec 256) : Tensor :=
  { dims := (List.range 4).map (hDim h), tag := hTag h, ext := hExtent h, base := hBase h, log := hLog h, tid := hTid h,
    depth := hDepth h, frozen := hFrozen h }

/-- Element width of a tensor. -/
def Tensor.w (t : Tensor) : Nat := widthOf t.tag

/-- The base image in the log area (R239). -/
def Tensor.image (t : Tensor) : Nat := t.log + 4096

/-- The payload store in the log area (R239). -/
def Tensor.store (t : Tensor) : Nat := t.log + 4096 + t.ext

/-- A box: (LO, HI) for each of four dimensions. -/
abbrev Box := List (Nat × Nat)

/-- The box of the lower 256 bits of a record or descriptor (R244). -/
def boxOf {n : Nat} (v : BitVec n) : Box := (List.range 4).map (fun i => (field v (192 - 64 * i) 32, field v (224 - 64 * i) 32))

/-- The bits of a box. -/
def boxBits (b : Box) : Nat := b.foldl (fun acc x => acc * 2 ^ 64 + x.2 * 2 ^ 32 + x.1) 0

/-- A box lies in a tensor (R241). -/
def boxOk (t : Tensor) (b : Box) : Bool := (t.dims.zip b).all (fun x => decide (x.2.1 ≤ x.2.2) && decide (x.2.2 < x.1))

/-- The elements of a box. -/
def boxSize (b : Box) : Nat := b.foldl (fun n x => n * (x.2 + 1 - x.1)) 1

/-- The linear indices of a box in ascending order. -/
def boxElems (t : Tensor) (b : Box) : List Nat :=
  (t.dims.zip b).foldl (fun xs d =>
    xs.flatMap (fun x => (List.range (d.2.2 + 1 - d.2.1)).map (fun i => x * d.1 + d.2.1 + i))) [0]

/-- The coordinates of a linear index. -/
def coordsIn (dims : List Nat) (e : Nat) : List Nat :=
  (dims.foldr (fun d (acc : Nat × List Nat) => (acc.1 / d, acc.1 % d :: acc.2)) (e, [])).2

/-- The place of an element in a box, in linear order. -/
def boxIndex (t : Tensor) (b : Box) (e : Nat) : Option Nat :=
  let xs := (coordsIn t.dims e).zip b
  if xs.all (fun x => decide (x.2.1 ≤ x.1) && decide (x.1 ≤ x.2.2)) then
    some (xs.foldl (fun n x => n * (x.2.2 + 1 - x.2.1) + (x.1 - x.2.1)) 0)
  else none

/-- a lies within b. -/
def boxWithin (a b : Box) : Bool := (a.zip b).all (fun x => decide (x.2.1 ≤ x.1.1) && decide (x.1.2 ≤ x.2.2))

/-- a and b meet. -/
def boxMeets (a b : Box) : Bool := (a.zip b).all (fun x => decide (x.1.1 ≤ x.2.2) && decide (x.2.1 ≤ x.1.2))

/-- The smallest box that holds both. -/
def boxHull (a b : Box) : Box := (a.zip b).map (fun x => (min x.1.1 x.2.1, max x.1.2 x.2.2))

/-- A live patch (R241): kind 0 ADD, 1 wide ADD, 2 SET; `off` is its span in the payload store. -/
structure Patch where
  tag : Nat
  kind : Nat
  rgn : Nat
  box : Box
  off : Nat
  vals : Array Nat
  undo : Array Nat

/-- Bytes of a value of a patch. -/
def valWidth (t : Tensor) (kind : Nat) : Nat := if kind = 1 then 4 else t.w

/-- The format of a value of a patch. -/
def valFmt (t : Tensor) (kind : Nat) : Tag := if kind = 1 then .f32 else t.tag

/-- Bytes of the payload of a patch: one value for each element of its region (R241). -/
def payloadBytes (t : Tensor) (kind : Nat) (b : Box) : Nat := boxSize b * valWidth t kind

/-- Bytes that the span of a patch holds: its payload, and behind that of a SET the undo values (R257). -/
def spanBytes (t : Tensor) (kind : Nat) (b : Box) : Nat :=
  if kind = 2 then 2 * payloadBytes t kind b else payloadBytes t kind b

/-- Bytes that the span of a patch takes (R257). -/
def spanSize (t : Tensor) (kind : Nat) (b : Box) : Nat := 64 * ceilDiv (spanBytes t kind b) 64

/-- Two patches commute (R243). -/
def commutes (p q : Patch) : Bool := !boxMeets p.box q.box || (p.kind != 2 && q.kind != 2)

/-- n values of width w from bytes. -/
def valuesOf (w n : Nat) (bytes : List Byte) : Array Nat :=
  ((List.range n).map (fun i => leNat ((bytes.drop (w * i)).take w))).toArray

/-- Values as bytes. -/
def bytesOf (w : Nat) (vals : Array Nat) : List Byte := vals.toList.flatMap (leBytes w)

/-! ## The chain in the log area (R239, R256) -/

/-- The slot of a patch at a position, with its span offset in bits 287:256. -/
def slotBits (p : Patch) (pos off : Nat) : BitVec 512 :=
  BitVec.ofNat 512 (p.tag * 2 ^ 480 + p.kind * 2 ^ 478 + pos * 2 ^ 472 + p.rgn * 2 ^ 459 + off * 2 ^ 256 + boxBits p.box)

/-- The absent form (R256). -/
def absentSlot : BitVec 512 := BitVec.ofNat 512 (3 * 2 ^ 478)

/-- The bytes of a 64-byte record. -/
def recordBytes (r : BitVec 512) : List Byte := leBytes 64 r.toNat

/-- The patch of a slot without its values; none where the layout of R239 does not hold. -/
def slotPatch (t : Tensor) (v : BitVec 512) : Option Patch :=
  let p : Patch := { tag := field v 480 32, kind := field v 478 2, rgn := field v 459 13, box := boxOf v,
                     off := field v 256 32, vals := #[], undo := #[] }
  if p.tag != 0 && p.kind != 3 && boxOk t p.box && (p.kind == 2 || (fmtOf t.tag).isSome) &&
      p.off + spanSize t p.kind p.box ≤ 3 * t.ext then some p else none

/-- Spans do not overlap, and tags differ (R239, R241). -/
def disjointSpans (t : Tensor) : List Patch → Bool
  | [] => true
  | p :: r => r.all (fun q => q.tag != p.tag && (p.off + spanSize t p.kind p.box ≤ q.off ||
      q.off + spanSize t q.kind q.box ≤ p.off)) && disjointSpans t r

/-- A patch with the values of its span. -/
def State.withValues (s : State) (d ctx : Nat) (t : Tensor) (p : Patch) : Patch :=
  let bytes := s.readHbm d ctx (t.store + p.off) (spanBytes t p.kind p.box)
  let n := boxSize p.box
  let ws := valWidth t p.kind
  { p with vals := valuesOf ws n bytes, undo := if p.kind = 2 then valuesOf ws n (bytes.drop (n * ws)) else #[] }

/-- The chain of a tensor, positions from 1 upward; none where the log area has another layout than R239's (log 21). -/
def State.chainOf (s : State) (d ctx : Nat) (t : Tensor) : Option (List Patch) :=
  let n := (s.hbmByte d ctx (t.log + 3)).toNat
  if 63 < n then none
  else
    let slots := (List.range n).map (fun j => BitVec.ofNat 512 (leNat (s.readHbm d ctx (t.log + 64 * (j + 1)) 64)))
    let ps := slots.filterMap (slotPatch t)
    if ps.length = n && disjointSpans t ps then some (ps.map (s.withValues d ctx t)) else none

/-- The index of the live patch of a tag. -/
def findTag (ch : List Patch) (tag : Nat) : Option Nat := ch.findIdx? (fun p => p.tag == tag)

/-- A span put in its place by offset. -/
def insertSpan (x : Nat × Nat) : List (Nat × Nat) → List (Nat × Nat)
  | [] => [x]
  | y :: r => if x.1 < y.1 then x :: y :: r else y :: insertSpan x r

/-- The lowest free span of a size from `cur` on (R257). -/
def firstGap (size cap : Nat) : Nat → List (Nat × Nat) → Option Nat
  | cur, [] => if cur + size ≤ cap then some cur else none
  | cur, x :: r => if cur + size ≤ x.1 then some cur else firstGap size cap (max cur (x.1 + x.2)) r

/-- The span that a new patch takes beside those that stay. -/
def alloc (t : Tensor) (kept : List Patch) (size : Nat) : Option Nat :=
  firstGap size (3 * t.ext) 0 ((kept.map (fun p => (p.off, spanSize t p.kind p.box))).foldr insertSpan [])

/-! ## The fold (R242) -/

/-- What a fold of one element gives: the value, flags, the positions whose step gave a NaN, and for each SET the value
beneath it as (position, index in its box, value). -/
structure Fold where
  x : Nat
  flags : BitVec 5
  nans : List Nat
  under : List (Nat × Nat × Nat)

/-- One ADD onto a value of a format. -/
def addStep (dst src : Tag) (x a : Nat) : Res :=
  roundVal ((fmtOf dst).getD fF32) .rne false (addV .rne (elemVal dst x) (elemVal src a))

/-- The step of the patch at a position on an element. -/
def foldStep (t : Tensor) (e : Nat) (f : Fold) (pos : Nat) (p : Patch) : Fold :=
  match boxIndex t p.box e with
  | none => f
  | some i =>
    let a := p.vals.getD i 0
    if p.kind = 2 then { f with x := a, under := (pos, i, f.x) :: f.under }
    else
      let r := addStep t.tag (valFmt t p.kind) f.x a
      { f with x := r.bits, flags := f.flags ||| r.flags, nans := if r.nan then f.nans ++ [pos] else f.nans }

/-- The fold of an element over a chain whose first patch stands at position `pos`. -/
def foldElem (t : Tensor) (e : Nat) : Fold → Nat → List Patch → Fold
  | f, _, [] => f
  | f, pos, p :: r => foldElem t e (foldStep t e f pos p) (pos + 1) r

/-- What a refold of a list of elements gives: each element with its value, flags, NaNs with their coordinates, and the
values beneath the SETs. -/
structure Refold where
  view : List (Nat × Nat)
  flags : BitVec 5
  nans : List (Nat × Nat × Nat)
  under : List (Nat × Nat × Nat)

/-- The fold of a chain over elements, from given first values. -/
def refoldFrom (t : Tensor) (ch : List Patch) (pos : Nat) (start : Nat → Nat) (es : List Nat) : Refold :=
  let fs := es.map (fun e => (e, foldElem t e ⟨start e, 0, [], []⟩ pos ch))
  { view := fs.map (fun f => (f.1, f.2.x)), flags := fs.foldl (fun m f => m ||| f.2.flags) 0,
    nans := fs.flatMap (fun f => f.2.nans.map (fun k => (k, 0, f.1))), under := fs.flatMap (·.2.under) }

/-- Value of element e at an address of HBM. -/
def State.elemAt (s : State) (d ctx : Nat) (t : Tensor) (at' e : Nat) : Nat :=
  leNat (s.readHbm d ctx (at' + t.w * e) t.w)

/-- A chain with the values beneath its SETs brought up to date, and which patches changed by it. -/
def withUndo (ch : List Patch) (under : List (Nat × Nat × Nat)) : List (Patch × Bool) :=
  ((List.range ch.length).zip ch).map (fun x =>
    let mine := under.filter (fun u => u.1 == x.1 + 1)
    let new := mine.foldl (fun (a : Array Nat) u => a.setIfInBounds u.2.1 u.2.2) x.2.undo
    ({ x.2 with undo := new }, new.toList != x.2.undo.toList))

/-! ## Writes of a command (R239, R246) -/

/-- A run of elements and values joined into byte runs. -/
def runsOf (w base : Nat) : List (Nat × Nat) → List (Nat × List Byte)
  | [] => []
  | (e, x) :: r =>
    match runsOf w base r with
    | (a, bs) :: rest => if base + w * (e + 1) = a then (base + w * e, leBytes w x ++ bs) :: rest
        else (base + w * e, leBytes w x) :: (a, bs) :: rest
    | [] => [(base + w * e, leBytes w x)]

/-- The header and the slots of a chain. -/
def slotsOf (t : Tensor) (ch : List Patch) : List Byte :=
  recordBytes (BitVec.ofNat 512 (t.tid + ch.length * 2 ^ 24)) ++
    ((List.range 63).flatMap (fun j => recordBytes (match ch[j]? with
      | some p => slotBits p (j + 1) p.off
      | none => absentSlot)))

/-- The bytes of a patch's span. -/
def spanOf (t : Tensor) (p : Patch) : List Byte :=
  bytesOf (valWidth t p.kind) p.vals ++ (if p.kind = 2 then bytesOf t.w p.undo else [])

/-- The runs that a change of the chain and the view writes: header and slots, the spans that changed, the view. -/
def commitRuns (t : Tensor) (ch : List (Patch × Bool)) (fresh : Nat) (view : List (Nat × Nat)) : List (Nat × List Byte) :=
  (t.log, slotsOf t (ch.map (·.1))) ::
    ((ch.filter (fun p => p.2 || p.1.tag == fresh)).map (fun p => (t.store + p.1.off, spanOf t p.1)) ++
      runsOf t.w t.base view)

/-! ## The commands at π (R248–R257) -/

/-- A descriptor's fields. -/
def dTag (c : NmuCmd) : Nat := field c.desc 480 32
/-- TAG2. -/
def dTag2 (c : NmuCmd) : Nat := field c.desc 448 32
/-- NTAG. -/
def dNtag (c : NmuCmd) : Nat := field c.desc 416 32
/-- PAY. -/
def dPay (c : NmuCmd) : Nat := field c.desc 384 32
/-- OUT. -/
def dOut (c : NmuCmd) : Nat := field c.desc 352 32

/-- DETAIL of a patch fault (R258, R307). -/
def patchDetail (tid tag tag2 d : Nat) : BitVec 256 :=
  BitVec.ofNat 256 (tid + tag * 2 ^ 32 + tag2 * 2 ^ 64 + d % 2 ^ 32 * 2 ^ 96)

/-- The change of a command: what it folds reads (R310), flags, NaNs, a check made on the outcome, the new chain with
its undo values, the fresh tag, the view, and CHANGED. -/
structure PatchDo where
  reads : List (Nat × Nat)
  flags : BitVec 5
  nans : List (Nat × Nat × Nat)
  late : Check
  chain : List (Patch × Bool)
  fresh : Nat
  view : List (Nat × Nat)
  changed : Nat

/-- What a command does at π: nothing but a record with STATUS 1; or its checks, and where they pass a change; or, where the
patch it copies stands in a log area of another layout than R239's, its checks and then what the device does not state
(log 21). -/
inductive PatchAct where
  | already
  | act (checks : List Check) (f : Unit → PatchDo)
  | unstated (checks : List Check)

/-- The required work of a refold (R246). -/
def refoldWork (t : Tensor) (box : Box) (ch : List Box) : Nat :=
  ceilDiv (boxSize box * t.w) 64 * (1 + (ch.filter (boxMeets box)).length)

/-- The work check (R246). -/
def workChk (c : NmuCmd) (t : Tensor) (d need : Nat) : Check := chk (decide (c.work < need)) 0x33 (patchDetail t.tid 0 0 d)

/-- FROZEN. -/
def frozenChk (t : Tensor) : Check := chk t.frozen 0x37 (patchDetail t.tid 0 0 0)

/-- Shape. -/
def shapeFault (t : Tensor) (bad : Bool) : Check := chk bad 0x32 (patchDetail t.tid 0 0 0)

/-- No room for another patch. -/
def depthChk (t : Tensor) (d : Nat) : Check := chk (decide (t.depth ≤ d)) 0x33 (patchDetail t.tid 0 0 d)

/-- An unknown tag. -/
def unknownTag (t : Tensor) (tag : Nat) : Check := some (0x31, patchDetail t.tid tag 0 0)

/-- No span fits. -/
def fullChk (t : Tensor) (off : Option Nat) : Check := chk off.isNone 0x18 (patchDetail t.tid 0 0 0)

/-- The patch that ptrans copies, as it stood in A at π − 1: its slot, with A's live depth in the POS field, and its
values; none where it was not live (R253). -/
def copiedPatch (c : NmuCmd) : Option Patch :=
  let a := tensorOf c.ha
  if c.second.length < 64 then none
  else
    (slotPatch a (BitVec.ofNat 512 (leNat (c.second.take 64)))).map (fun p =>
      { p with vals := valuesOf (valWidth a p.kind) (boxSize p.box) (c.second.drop 64) })

/-- The header or a slot of A's log area was poisoned, or its chain has another layout than R239's (log 21): which patch
ptrans copies is not known. -/
def unreadCopy (c : NmuCmd) : Bool := c.second.length == 1

/-- A poisoned operand of a command, consumed at π: the payload of a papply, or what ptrans has read of A (R310). -/
def operandPoison (c : NmuCmd) : Check := c.poison.map (fun p => (0x42, p))

/-- The checks of ptrans that need nothing of B's chain (R253): TAG is live in A, and its patch fits B and the box, as far as
the read of A shows. DESIGN CHOICE: the record of an unknown TAG names the TID of B (log 154). -/
def copyChks (c : NmuCmd) (t : Tensor) : List Check :=
  let sameFmt := (tensorOf c.ha).tag == t.tag
  if unreadCopy c then [shapeFault t (!sameFmt)]
  else match copiedPatch c with
    | none => [unknownTag t (dTag c)]
    | some p => [shapeFault t (!(sameFmt && boxOk t p.box) || !boxWithin p.box (boxOf c.desc))]

/-- The checks at π that need nothing of a chain of n patches: FROZEN, the format of an ADD, operands, and the least work
that the command can require (R246, R247, R249, R253). -/
def chainFreeChks (c : NmuCmd) (t : Tensor) (n : Nat) : List Check :=
  let add := c.op == .papplyAdd || c.op == .papplyAddw
  let apply := add || c.op == .papplySet
  operandPoison c :: (if c.op == .ptrans || c.op == .ptransA then copyChks c t else []) ++
    [frozenChk t, shapeFault t (add && (fmtOf t.tag).isNone),
     workChk c t n (if apply then c.pbytes / 64 else refoldWork t (boxOf c.desc) [])]

/-- The lines of a run of elements. -/
def elemRanges (t : Tensor) (at' : Nat) (es : List Nat) : List (Nat × Nat) := es.map (fun e => (at' + t.w * e, t.w))

/-- The payloads of stored patches whose regions meet a box, without the undo values of a SET (R241, R242). -/
def payloadRanges (t : Tensor) (box : Box) (ch : List Patch) : List (Nat × Nat) :=
  (ch.filter (fun p => boxMeets p.box box)).map (fun p => (t.store + p.off, payloadBytes t p.kind p.box))

/-- A refold of a box over a new chain; `stored` are the patches whose payloads lie in the store. -/
def State.refoldDo (s : State) (d ctx : Nat) (t : Tensor) (box : Box) (stored ch : List Patch) (fresh : Nat)
    (pre : BitVec 5) : PatchDo :=
  let es := boxElems t box
  let r := refoldFrom t ch 1 (s.elemAt d ctx t t.image) es
  { reads := elemRanges t t.image es ++ payloadRanges t box stored, flags := r.flags ||| pre, nans := r.nans, late := none,
    chain := withUndo ch r.under, fresh := fresh, view := r.view, changed := 0 }

/-- Elements of a view whose bits in HBM differ. -/
def State.changedIn (s : State) (d ctx : Nat) (t : Tensor) (view : List (Nat × Nat)) : Nat :=
  (view.filter (fun x => s.elemAt d ctx t t.base x.1 != x.2)).length

/-- A list with an entry put behind index i. -/
def insertAfter {α : Type} (l : List α) (i : Nat) (x : α) : List α := l.take (i + 1) ++ x :: l.drop (i + 1)

/-- papply (R249). -/
def State.papplyAt (s : State) (c : NmuCmd) (kind : Nat) (d ctx : Nat) (t : Tensor) (ch : List Patch) : PatchAct :=
  let box := boxOf c.desc
  let off := alloc t ch (spanSize t kind box)
  if (findTag ch (dTag c)).isSome then .already
  else
    .act [frozenChk t, shapeFault t (kind != 2 && (fmtOf t.tag).isNone), depthChk t ch.length, fullChk t off,
        workChk c t ch.length (c.pbytes / 64), operandPoison c]
      (fun _ =>
        let es := boxElems t box
        let view := s.elemAt d ctx t t.base
        let p : Patch :=
          { tag := dTag c, kind := kind, rgn := c.region.toNat, box := box, off := off.getD 0,
            vals := valuesOf (valWidth t kind) (boxSize box) c.input,
            undo := if kind = 2 then (es.map view).toArray else #[] }
        let r := refoldFrom t [p] (ch.length + 1) view es
        { reads := elemRanges t t.base es, flags := r.flags, nans := r.nans, late := none,
          chain := (ch ++ [p]).map (fun q => (q, false)), fresh := p.tag, view := r.view, changed := 0 })

/-- The inverse of a patch without its span (R250). -/
def inversePatch (t : Tensor) (c : NmuCmd) (p : Patch) (off : Nat) : Patch :=
  { p with tag := dNtag c, rgn := c.region.toNat, off := off,
           vals := if p.kind = 2 then p.undo
             else p.vals.map (fun v => v ^^^ 2 ^ (8 * valWidth t p.kind - 1)) }

/-- pinv (R250). -/
def State.pinvAt (s : State) (c : NmuCmd) (d ctx : Nat) (t : Tensor) (ch : List Patch) : PatchAct :=
  let box := boxOf c.desc
  if (findTag ch (dNtag c)).isSome then .already
  else
    match findTag ch (dTag c), (findTag ch (dTag c)).bind (ch[·]?) with
    | some i, some p =>
      let off := alloc t ch (spanSize t p.kind p.box)
      let new := insertAfter ch i (inversePatch t c p (off.getD 0))
      .act [frozenChk t, shapeFault t (!boxWithin p.box box), depthChk t ch.length, fullChk t off,
          workChk c t ch.length (refoldWork t box (new.map (·.box)))]
        (fun _ =>
          let r := s.refoldDo d ctx t box ch new (dNtag c) 0
          let without := refoldFrom t (ch.eraseIdx i) 1 (s.elemAt d ctx t t.image) (boxElems t p.box)
          let differ := without.view.filter (fun x => r.view.any (fun y => y.1 == x.1 && y.2 != x.2))
          { r with changed := differ.length })
    | _, _ => .act [unknownTag t (dTag c), frozenChk t, depthChk t ch.length] (fun _ => s.refoldDo d ctx t box ch ch 0 0)

/-- pdrop (R251). -/
def State.pdropAt (s : State) (c : NmuCmd) (d ctx : Nat) (t : Tensor) (ch : List Patch) : PatchAct :=
  let box := boxOf c.desc
  match findTag ch (dTag c), (findTag ch (dTag c)).bind (ch[·]?) with
  | some i, some p =>
    let new := ch.eraseIdx i
    .act [frozenChk t, shapeFault t (!boxWithin p.box box), workChk c t ch.length (refoldWork t box (new.map (·.box)))]
      (fun _ => s.refoldDo d ctx t box new new 0 0)
  | _, _ => .act [unknownTag t (dTag c), frozenChk t] (fun _ => s.refoldDo d ctx t box ch ch 0 0)

/-- pcomm (R252). The patches of the resulting chain are those of the chain, whatever stands between p and q. -/
def State.pcommAt (s : State) (c : NmuCmd) (d ctx : Nat) (t : Tensor) (ch : List Patch) : PatchAct :=
  let box := boxOf c.desc
  let both := patchDetail t.tid (dTag c) (dTag2 c) 0
  match (findTag ch (dTag c)), (findTag ch (dTag c)).bind (ch[·]?), findTag ch (dTag2 c),
      (findTag ch (dTag2 c)).bind (ch[·]?) with
  | some i, some p, some j, some q =>
    let new := ch.take i ++ q :: p :: ch.drop (i + 2)
    .act [chk (j != i + 1) 0x35 both, frozenChk t, shapeFault t (!(boxWithin p.box box && boxWithin q.box box)),
        chk (!commutes p q) 0x30 both, workChk c t ch.length (refoldWork t box (ch.map (·.box)))]
      (fun _ =>
        let r := s.refoldDo d ctx t box ch new 0 0
        { r with changed := s.changedIn d ctx t r.view })
  | some _, some _, _, _ => .act [unknownTag t (dTag2 c), frozenChk t] (fun _ => s.refoldDo d ctx t box ch ch 0 0)
  | _, _, _, _ => .act [unknownTag t (dTag c), frozenChk t] (fun _ => s.refoldDo d ctx t box ch ch 0 0)

/-- The first patch above an anchor that the copy does not commute with. -/
def firstConflict (p : Patch) (above : List Patch) : Option Nat := (above.find? (fun q => !commutes p q)).map (·.tag)

/-- ptrans and ptrans.a (R253). Where the read of A does not show the copied patch, no check that needs it is made (R78). DESIGN
CHOICE: where neither TAG nor the anchor is live the record names TAG (log 155). -/
def State.ptransAt (s : State) (c : NmuCmd) (anchored : Bool) (d ctx : Nat) (t : Tensor) (ch : List Patch) : PatchAct :=
  let box := boxOf c.desc
  let a := tensorOf c.ha
  let anchor := if anchored then findTag ch (dTag2 c) else if ch.length = 0 then none else some (ch.length - 1)
  let own (work : Nat) : List Check :=
    operandPoison c :: copyChks c t ++ [if anchored && anchor.isNone then unknownTag t (dTag2 c) else none, frozenChk t,
      depthChk t ch.length, workChk c t ch.length work]
  if (findTag ch (dNtag c)).isSome then .already
  else if unreadCopy c && c.poison.isNone then .unstated (own (refoldWork t box (ch.map (·.box))))
  else
    match copiedPatch c with
    | none => .act (own (refoldWork t box (ch.map (·.box)))) (fun _ => s.refoldDo d ctx t box ch ch 0 0)
    | some p =>
      let off := alloc t ch (spanSize a p.kind p.box)
      let copy : Patch := { p with tag := dNtag c, rgn := c.region.toNat, off := off.getD 0,
                                   undo := if p.kind = 2 then p.vals else #[] }
      let new := match anchor with
        | some i => insertAfter ch i copy
        | none => copy :: ch
      let conflict := if anchored then (anchor.bind (fun i => firstConflict copy (ch.drop (i + 1)))) else none
      .act (own (refoldWork t box (new.map (·.box))) ++
          [fullChk t off, conflict.map (fun q => (0x30, patchDetail t.tid (dNtag c) q 0))])
        (fun _ => s.refoldDo d ctx t box ch new (dNtag c) 0)

/-- The sum of the members of a run over an element, with flags and the positions of NaNs (R254). -/
def squashSum (t : Tensor) (e : Nat) : Fold → Nat → List Patch → Fold
  | f, _, [] => f
  | f, pos, p :: r =>
    match boxIndex t p.box e with
    | none => squashSum t e f (pos + 1) r
    | some i =>
      let x := addStep .f32 (valFmt t p.kind) f.x (p.vals.getD i 0)
      squashSum t e { f with x := x.bits, flags := f.flags ||| x.flags,
                             nans := if x.nan then f.nans ++ [pos] else f.nans } (pos + 1) r

/-- The patch that replaces a run, with flags and NaNs (R254). -/
def State.squashed (s : State) (c : NmuCmd) (d ctx : Nat) (t : Tensor) (ch : List Patch) (i j off : Nat) (box : Box) :
    Patch × BitVec 5 × List (Nat × Nat × Nat) :=
  let run := (ch.drop i).take (j + 1 - i)
  let es := boxElems t box
  let p : Patch := { tag := dNtag c, kind := 1, rgn := c.region.toNat, box := box, off := off, vals := #[], undo := #[] }
  if run.all (fun q => q.kind != 2) then
    let fs := es.map (fun e => (e, squashSum t e ⟨0x80000000, 0, [], []⟩ (i + 1) run))
    ({ p with vals := (fs.map (·.2.x)).toArray }, fs.foldl (fun m f => m ||| f.2.flags) 0,
      fs.flatMap (fun f => f.2.nans.map (fun k => (k, 0, f.1))))
  else
    let base := s.elemAt d ctx t t.image
    let thru := refoldFrom t (ch.take (j + 1)) 1 base es
    let below := refoldFrom t (ch.take i) 1 base es
    ({ p with kind := 2, vals := (thru.view.map (·.2)).toArray, undo := (below.view.map (·.2)).toArray },
      thru.flags, thru.nans)

/-- psquash and psquash.x (R254). Where q lies below p the order fault is due; DEDUCED: the other checks are then made on the
patches from q up to p (log 110). DESIGN CHOICE: where neither patch is live the record names TAG (log 155). DESIGN CHOICE:
where values of the new patch are NaN the first NaN is theirs, whatever the refold of other elements gives (log 139). -/
def State.psquashAt (s : State) (c : NmuCmd) (exact' : Bool) (d ctx : Nat) (t : Tensor) (ch : List Patch) : PatchAct :=
  let box := boxOf c.desc
  match findTag ch (dTag c), findTag ch (dTag2 c) with
  | some below, some above =>
      let i := min below above
      let j := max below above
      let run := (ch.drop i).take (j + 1 - i)
      let hull := run.foldl (fun b p => boxHull b p.box) ((run.head?.map (·.box)).getD [])
      let kind := if run.all (fun q => q.kind != 2) then 1 else 2
      let kept := ch.take i ++ ch.drop (j + 1)
      let off := alloc t kept (spanSize t kind hull)
      .act [chk (decide (above < below)) 0x35 (patchDetail t.tid (dTag c) (dTag2 c) 0), frozenChk t, shapeFault t (!boxWithin hull box),
          chk ((findTag kept (dNtag c)).isSome) 0x34 (patchDetail t.tid 0 (dNtag c) 0), fullChk t off,
          workChk c t ch.length (refoldWork t box (hull :: kept.map (·.box)))]
        (fun _ =>
          let p := s.squashed c d ctx t ch i j (off.getD 0) hull
          let r := s.refoldDo d ctx t box ch (ch.take i ++ p.1 :: ch.drop (j + 1)) (dNtag c) p.2.1
          let changed := s.changedIn d ctx t r.view
          { r with nans := if p.2.2.isEmpty then r.nans else p.2.2, changed := changed,
                   late := chk (exact' && changed != 0) 0x36 (patchDetail t.tid 0 0 changed) })
  | i, _ => .act [unknownTag t (if i.isNone then dTag c else dTag2 c), frozenChk t]
      (fun _ => s.refoldDo d ctx t box ch ch 0 0)

/-- The record of a command (R248). -/
def patchRecord (status changed depth perf : Nat) : BitVec 512 :=
  BitVec.ofNat 512 (status * 2 ^ 480 + changed % 2 ^ 32 * 2 ^ 448 + depth * 2 ^ 416 + perf % 2 ^ 64 * 2 ^ 352)

/-- The slot records that pinfo and plog write (R256, R257). -/
def reportOf (c : NmuCmd) (ch : List Patch) : List Byte :=
  let all := ((List.range ch.length).zip ch).map (fun x => (x.2, slotBits x.2 (x.1 + 1) 0))
  match c.op with
  | .pinfo => recordBytes (((all.find? (fun x => x.1.tag == dTag c && dTag c != 0)).map (·.2)).getD absentSlot)
  | op =>
    let listed := (if op = .plogR then all.filter (fun x => x.1.rgn == dTag2 c % 2 ^ 13) else all).map (·.2)
    (List.range (c.pbytes / 64)).flatMap (fun i => recordBytes (listed[i]?.getD absentSlot))

/-- Bytes are written at OUT from π + 300 on, where it names an address. -/
def State.report (s : State) (c : NmuCmd) (bytes : List Byte) : State :=
  if dOut c = noAddr then s else s.writeBeats c (s.now + 300) (beatsOf (dOut c) bytes)

/-- A command on a log area of another layout: the view of its box and the record are what the device does not state, and, where
the area is that of the tensor it changes, the chain and the payload store (R239; log 21). -/
def State.malformed (s : State) (c : NmuCmd) (t : Tensor) (changes own : Bool) : State :=
  let d := c.word.id.dev
  let ctx := s.ctxW c.word
  let view := (boxElems t (boxOf c.desc)).map (fun e => t.base + t.w * e)
  let k := s.free
  let out := if c.op = .plog ∨ c.op = .plogR then c.pbytes else 64
  let n := t.w * view.length
  let s := { s with free := k + n + 4096 + 3 * t.ext + out }
  let s := if changes then
      let s := (view.zipIdx).foldl (fun s a => s.writeHbm d ctx a.1 (freeBytes (k + t.w * a.2) t.w)) s
      if own then
        (s.writeHbm d ctx t.log (freeBytes (k + n) 4096)).writeHbm d ctx t.store (freeBytes (k + n + 4096) (3 * t.ext))
      else s
    else s
  s.report c (freeBytes (k + n + 4096 + 3 * t.ext) out)

/-- A change of the chain performs (R242, R248). `area` is what the command has read of the log area besides. What a fold
of poisoned values gives is not looked at (R78, R310). -/
def State.commitPatch (s : State) (c : NmuCmd) (t : Tensor) (area : List (Nat × Nat × Bool)) (x : PatchDo) : State :=
  let d := c.word.id.dev
  let ctx := s.ctxW c.word
  let runs := commitRuns t x.chain x.fresh x.view
  let touched := area ++ (x.reads.map (fun r => (r.1, r.2, false))) ++ runs.map (fun r => (r.1, r.2.length, true))
  let found := match s.nmuPoison c x.reads with
    | some p => [some p]
    | none => [(firstNan x.nans).map (fun k => (0x20, nanDetail k)), x.late]
  s.nmuPerform c (s.nmuWatch c touched :: found) (fun s =>
    let s := runs.foldl (fun s r => s.writeHbm d ctx r.1 r.2) s
    (s.nmuFlags c x.flags).report c (recordBytes (patchRecord 0 x.changed x.chain.length s.now)))

/-- What ptrans has read of A: header, slots, values (R323). -/
def copyTouched (c : NmuCmd) : List (Nat × Nat × Bool) :=
  let a := tensorOf c.ha
  match if c.op = .ptrans ∨ c.op = .ptransA then copiedPatch c else none with
  | none => []
  | some p =>
    [(a.log, 64 * (field (BitVec.ofNat 512 (leNat (c.second.take 64))) 472 6 + 1), false),
     (a.store + p.off, boxSize p.box * valWidth a p.kind, false)]

/-- What a command does at π on a chain. -/
def State.patchAct (s : State) (c : NmuCmd) (d ctx : Nat) (t : Tensor) (ch : List Patch) : PatchAct :=
  match c.op with
  | .papplyAdd => s.papplyAt c 0 d ctx t ch
  | .papplyAddw => s.papplyAt c 1 d ctx t ch
  | .papplySet => s.papplyAt c 2 d ctx t ch
  | .pinv => s.pinvAt c d ctx t ch
  | .pdrop => s.pdropAt c d ctx t ch
  | .pcomm => s.pcommAt c d ctx t ch
  | .ptrans => s.ptransAt c false d ctx t ch
  | .ptransA => s.ptransAt c true d ctx t ch
  | .psquash => s.psquashAt c false d ctx t ch
  | .psquashX => s.psquashAt c true d ctx t ch
  | _ => .already

/-- pinfo and plog change nothing. -/
def reportsOnly : NmuOp → Bool
  | .pinfo | .plog | .plogR => true
  | _ => false

/-- The header and the slots that a command reads of a log area whose header counts n patches. -/
def areaOf (t : Tensor) (n : Nat) : Nat × Nat := (t.log, 64 * (min 63 n + 1))

/-- A patch command performs at its home NMU at π (R246–R257). Where the header or a slot is poisoned, no check that needs the
chain is made (R78, R310; log 52). -/
def execPatchPerform (c : NmuCmd) (s : State) : Out :=
  let d := c.word.id.dev
  let ctx := s.ctxW c.word
  let t := tensorOf (targetHandle c)
  let n := (s.hbmByte d ctx (t.log + 3)).toNat
  let area := areaOf t n
  let log := (area.1, area.2, false) :: copyTouched c
  let watch := s.nmuWatch c log
  let poison := s.nmuPoison c [area]
  .next (if poison.isSome then
      s.nmuPerform c (poison :: watch :: if reportsOnly c.op then [] else chainFreeChks c t 0) (fun s => s)
    else match s.chainOf d ctx t with
    | none =>
      s.nmuPerform c (watch :: if reportsOnly c.op then [] else chainFreeChks c t n)
        (fun s => s.malformed c t (!reportsOnly c.op) true)
    | some ch =>
      if reportsOnly c.op then s.nmuPerform c [watch] (fun s => s.report c (reportOf c ch))
      else
        match s.patchAct c d ctx t ch with
        | .already =>
          s.nmuPerform c [watch] (fun s => s.report c (recordBytes (patchRecord 1 0 ch.length s.now)))
        | .unstated checks => s.nmuPerform c (watch :: checks) (fun s => s.malformed c t true false)
        | .act checks f =>
          match firstFault checks with
          | some x => s.nmuPerform c [some x] (fun s => s)
          | none => s.commitPatch c t log (f ()))

/-! ## The stages before π (R247) -/

/-- A handle names a bound tensor (R149, R286). -/
def State.tensorHandle (s : State) (h : Nat) : Check :=
  chk (!s.me.isBound h || hIsSketch (s.me.rh h)) 0x14 (handleDetail (s.me.rh h))

/-- The value width of a papply. -/
def papplyKind : NmuOp → Option Nat
  | .papplyAdd => some 0
  | .papplyAddw => some 1
  | .papplySet => some 2
  | _ => none

/-- A patch command word (R245, R247). -/
def patchCommand (op : NmuOp) (h k : BitVec 5) (a : BitVec 5) (s : State) : Out :=
  let x := s.me.cmdGroup a
  let w := field x.2 32 32
  let p := field x.2 0 32
  let log := op == .plog || op == .plogR
  let pay := (papplyKind op).isSome
  let two := op == .ptrans || op == .ptransA
  let beats := ceilDiv p 1024
  let outs := if log then max 1 beats else 1
  let c := s.command op h.toNat k.toNat w p (if pay then beats else 0) (if log then beats else 0) x.1
  let t := tensorOf (targetHandle c)
  s.issueCommand c (if two then [h.toNat, k.toNat] else [h.toNat]) outs
    ([s.tensorHandle h.toNat, if two then s.tensorHandle k.toNat else none, chk (p % 64 != 0) 0x11 (addrDetail .sp p),
      shapeFault t (if log then decide (p < 64) || decide (4032 < p) else !pay && p != 0),
      chk (decide (2 ^ 20 < w) || s.pastLeg w outs) 0x33 (patchDetail t.tid 0 0 0)])

/-- papply.add h, [aa]. -/
def execPapplyAdd (_g : BitVec 4) (h a : BitVec 5) (s : State) : Out := patchCommand .papplyAdd h 0 a s
/-- papply.set h, [aa]. -/
def execPapplySet (_g : BitVec 4) (h a : BitVec 5) (s : State) : Out := patchCommand .papplySet h 0 a s
/-- papply.addw h, [aa]. -/
def execPapplyAddw (_g : BitVec 4) (h a : BitVec 5) (s : State) : Out := patchCommand .papplyAddw h 0 a s
/-- pinv h, [aa]. -/
def execPinv (_g : BitVec 4) (h a : BitVec 5) (s : State) : Out := patchCommand .pinv h 0 a s
/-- pdrop h, [aa]. -/
def execPdrop (_g : BitVec 4) (h a : BitVec 5) (s : State) : Out := patchCommand .pdrop h 0 a s
/-- pcomm h, [aa]. -/
def execPcomm (_g : BitVec 4) (h a : BitVec 5) (s : State) : Out := patchCommand .pcomm h 0 a s
/-- ptrans hB, hA, [aa]. -/
def execPtrans (_g : BitVec 4) (h k a : BitVec 5) (s : State) : Out := patchCommand .ptrans h k a s
/-- ptrans.a hB, hA, [aa]. -/
def execPtransA (_g : BitVec 4) (h k a : BitVec 5) (s : State) : Out := patchCommand .ptransA h k a s
/-- psquash h, [aa]. -/
def execPsquash (_g : BitVec 4) (h a : BitVec 5) (s : State) : Out := patchCommand .psquash h 0 a s
/-- psquash.x h, [aa]. -/
def execPsquashX (_g : BitVec 4) (h a : BitVec 5) (s : State) : Out := patchCommand .psquashX h 0 a s
/-- pinfo h, [aa]. -/
def execPinfo (_g : BitVec 4) (h a : BitVec 5) (s : State) : Out := patchCommand .pinfo h 0 a s
/-- plog h, [aa]. -/
def execPlog (_g : BitVec 4) (h a : BitVec 5) (s : State) : Out := patchCommand .plog h 0 a s
/-- plog.r h, [aa]. -/
def execPlogR (_g : BitVec 4) (h a : BitVec 5) (s : State) : Out := patchCommand .plogR h 0 a s

/-- A command declares a refold box. -/
def hasBox : NmuOp → Bool
  | .pinv | .pdrop | .pcomm | .ptrans | .ptransA | .psquash | .psquashX => true
  | _ => false

/-- A command makes a new tag. -/
def makesTag : NmuOp → Bool
  | .pinv | .ptrans | .ptransA | .psquash | .psquashX => true
  | _ => false

/-- The checks at t + 6 (R247). -/
def patchDescChks (c : NmuCmd) : List Check :=
  let t := tensorOf (targetHandle c)
  let box := boxOf c.desc
  let out := dOut c
  let outLen := if c.op = .plog ∨ c.op = .plogR then c.pbytes else 64
  let pay := match papplyKind c.op with
    | some kind =>
      [alignChk .sp (dPay c) 64, boundChk .sp spSize (dPay c) c.pbytes,
       shapeFault t (!boxOk t box || c.pbytes != 64 * ceilDiv (boxSize box * valWidth t kind) 64),
       shapeFault t (dTag c == 0)]
    | none => []
  pay ++ (if out = noAddr then [] else [alignChk .sp out 64, boundChk .sp spSize out outLen]) ++
    [shapeFault t (hasBox c.op && !boxOk t box), shapeFault t (makesTag c.op && dNtag c == 0)]

/-- A command reads a second tensor at π − 1. -/
def readsSecond (c : NmuCmd) : Bool := c.op == .ptrans || c.op == .ptransA

/-- The patch that ptrans copies is read at A's home NMU (R253): A's header and slots, which show the patch unless one of
them is poisoned or they have another layout than R239's, and then its values (R310). -/
def State.readPatch (s : State) (c : NmuCmd) : NmuCmd :=
  let d := c.word.id.dev
  let ctx := s.ctxW c.word
  let a := tensorOf c.ha
  let area := areaOf a (s.hbmByte d ctx (a.log + 3)).toNat
  match s.nmuPoison c [area], s.chainOf d ctx a with
  | some p, _ => { c with second := [0], poison := some p.2 }
  | none, none => { c with second := [0] }
  | none, some ch =>
    match ch.find? (fun p => p.tag == dTag c && dTag c != 0) with
    | none => { c with second := [] }
    | some p =>
      { c with second := recordBytes (slotBits p ch.length p.off) ++ bytesOf (valWidth a p.kind) p.vals,
               poison := (s.nmuPoison c [(a.store + p.off, boxSize p.box * valWidth a p.kind)]).map (·.2) }

/-- The payload beat j of a papply. -/
def payloadBeat (c : NmuCmd) (j : Nat) : Nat × Nat := (dPay c + 1024 * j, min 1024 (c.pbytes - 1024 * j))

end Sys2Proof.Machine
end

