-- ==== Sys2Proof/Machine/Firmware.lean ====
section
/-! DEFINITION. What firmware, the host and the device's own controllers do: mappings and the scanner (R51–R56, R61,
R149–R151), image loads (R239), errors (R309, R310, R315, R316), spoor holds (R326), bring-up (R330), security (R328) and
power (R84, R329). -/

namespace Sys2Proof.Machine

/-! ## Frames (R2, R61) -/

/-- The bytes of HBM: 640 GB (R2; log 111). -/
def hbmBytes : Nat := 640 * 10 ^ 9

/-- A context holds a byte of HBM: since the byte's frame was first mapped into it, no other context has had the frame. -/
def Device.holds (x : Device) (c a : Nat) : Bool := x.held.any (fun h => h.1 == c && h.2.1 ≤ a && a < h.2.1 + h.2.2)

/-- What is left of a range (context, address, size) outside [a, a + n). -/
def rangeLess (a n : Nat) (h : Nat × Nat × Nat) : List (Nat × Nat × Nat) :=
  let till := h.2.1 + h.2.2
  (if h.2.1 < a then [(h.1, h.2.1, min h.2.2 (a - h.2.1))] else []) ++
    (if a + n < till then [(h.1, max h.2.1 (a + n), till - max h.2.1 (a + n))] else [])

/-- A frame is given to a context: the bytes that the context does not hold, or all of them, are zeroed first (R61). -/
def Device.giveFrame (x : Device) (c a n : Nat) (all : Bool) : Device :=
  let stays (b : Nat) : Bool := !(a ≤ b && b < a + n) || (!all && x.holds c b)
  { x with hbm := x.hbm.filter (fun e => stays e.1), hbmPoison := x.hbmPoison.filter (fun l => stays (64 * l)),
           held := (c, a, n) :: x.held.flatMap (rangeLess a n) }

/-! ## Pages (R149–R151) -/

/-- The page sizes. -/
def pageSizes : List Nat := [2 ^ 16, 2 ^ 21, 2 ^ 30]

/-- A request names a page: its size, an aligned virtual address, and an aligned frame within HBM. -/
def pageFits (r : MapReq) : Bool :=
  pageSizes.contains r.size && r.va % r.size == 0 && r.frame % r.size == 0 && decide (r.va + r.size ≤ hbmSize) &&
    decide (r.frame + r.size ≤ hbmBytes) && decide (r.ctx < 16)

/-- The pages of a context that a virtual range touches. -/
def State.pagesAt (s : State) (d c va n : Nat) : List Page := (s.ctx d c).pages.filter (fun p => framesMeet va n p.va p.size)

/-- Some page that a range touches is pinned (R150). -/
def State.pinnedAt (s : State) (d c va n : Nat) : Bool := (s.pagesAt d c va n).any (fun p => decide (0 < p.pins s.now))

/-- A request has completed with status "pinned". -/
def State.answerPinned (s : State) (d : Nat) : State := s.modDev d (fun x => { x with pinned := x.pinned + 1 })

/-- A request has completed with a failure record (R53). A request for a page that is not executable asks for no kind:
its record has KIND 0 (log 112). -/
def State.answerFailure (s : State) (d : Nat) (r : MapReq) (word : IWord) (offset reason : Nat) : State :=
  s.modDev d (fun x =>
    { x with failures := x.failures ++ [failureRecord r.va word offset ((r.exec.getD 0) % 8) reason] })

/-- A write has completed as an Unsupported Request (R56, R151). -/
def State.unsupportedAt (s : State) (d : Nat) : State := s.modDev d (fun x => { x with unsupported := x.unsupported + 1 })

/-- A page is mapped in the place of those it overlaps; it is fetchable from a count on (R56). -/
def State.mapPage (s : State) (d : Nat) (r : MapReq) (seen : Nat) : State :=
  let p : Page :=
    { va := r.va, size := r.size, frame := r.frame, exec := r.exec, writable := r.writable, tensor := r.tensor,
      inFlight := 0, lapsing := [], seen := seen }
  s.modCtx d r.ctx (fun x => { x with pages := p :: x.pages.filter (fun q => !framesMeet r.va r.size q.va q.size) })

/-- The frame has a writable mapping on the device. -/
def State.frameWritable (s : State) (d a n : Nat) : Bool :=
  (s.dev d).ctxs.toList.any (fun c => c.pages.any (fun p => p.writable && framesMeet a n p.frame p.size))

/-- The frame is executable with a kind other than k. -/
def State.otherKind (s : State) (d a n k : Nat) : Bool :=
  (s.dev d).ctxs.toList.any (fun c =>
    c.pages.any (fun p => (p.exec.map (fun j => j != k)).getD false && framesMeet a n p.frame p.size))

/-- Every byte of a frame is held by a context. -/
def Device.holdsFrame (x : Device) (c a n : Nat) : Bool :=
  x.held.any (fun h => h.1 == c && h.2.1 ≤ a && a + n ≤ h.2.1 + h.2.2)

/-- A request for a page that is not executable is served: the frame is zeroed as R61 asks and mapped plain. A writable
mapping of an executable frame, and one that would zero it, fails (R56; log 112). DESIGN CHOICE: one that fails is answered with
its failure, be the page it names pinned or not (log 149). -/
def State.mapPlain (s : State) (d : Nat) (r : MapReq) (all : Bool) : State :=
  if s.frameLocked d r.frame r.size && (r.writable || all || !(s.dev d).holdsFrame r.ctx r.frame r.size) then
    s.answerFailure d r 0 0 0x0F
  else if s.pinnedAt d r.ctx r.va r.size then s.answerPinned d
  else (s.modDev d (fun x => x.giveFrame r.ctx r.frame r.size all)).mapPage d { r with tensor := false } s.now

/-! ## Executable mappings and the scanner (R52–R56) -/

/-- Words of a frame. -/
def State.frameWords (s : State) (d a n : Nat) : List IWord :=
  (List.range n).map (fun i => BitVec.ofNat 32 (leNat (readBytes (s.dev d).hbm (a + 4 * i) 4)))

/-- What a page that was requested executable fails for: (word, offset, reason), or none where it passes. One of 1 GiB fails at
its first word, for the lowest reason of that word (R52, R54). -/
def State.scanVerdict (s : State) (d : Nat) (r : MapReq) : Option (IWord × Nat × Nat) :=
  let code := r.exec.getD 0
  match kindOf code with
  | none => some ((s.frameWords d r.frame 1).headD 0, 0, 0x0C)
  | some k =>
    if r.size = 2 ^ 30 then
      let ws := s.frameWords d r.frame (firstReach k (s.frameWords d r.frame 2))
      match scanPage k ws with
      | some (0, w, reason) => some (w, 0, min reason 0x0D)
      | _ => some (ws.headD 0, 0, 0x0D)
    else (scanPage k (s.frameWords d r.frame (r.size / 4))).map (fun x => (x.2.1, x.1, x.2.2))

/-- The frame conflicts that a request to map a page executable meets when it is served (R56). DEDUCED: an executable frame that
R61 would zero for another context is one of them (log 112). -/
def State.conflicts (s : State) (d : Nat) (r : MapReq) : Bool :=
  r.writable || s.frameWritable d r.frame r.size || s.otherKind d r.frame r.size (r.exec.getD 0) ||
    (s.frameLocked d r.frame r.size && !(s.dev d).holdsFrame r.ctx r.frame r.size)

/-- The command that a pending step belongs to, with its π (R246, R293). -/
def Pend.command? (p : Pend) : Option (NmuCmd × Nat) :=
  match p.act with
  | .patchPerform c | .sketchPerform c | .accessPerform (.secondRead c) => some (c, p.at')
  | .accessPerform (.descRead c) => some (c, p.at' + 594 + c.work)
  | .accessPerform (.inputRead c j) => some (c, p.at' + 593 - j + c.work)
  | _ => none

/-- The commands of a device that have not performed, those of suspended itineraries included (R173). -/
def State.commandsOn (s : State) (d : Nat) : List NmuCmd :=
  (((s.agenda ++ s.kept.map (·.pend)).filterMap Pend.command?).map (·.1)).filter (fun c => c.word.id.dev == d)

/-- The words of those commands that name an object in a frame. -/
def State.writersOf (s : State) (d a n : Nat) : List WordRef :=
  let meets (c : NmuCmd) : Bool := [c.ha, c.hb].any (fun h =>
    (handleRanges h).any (fun r => ((s.pagesOf d (s.ctxW c.word) r.1 r.2.1).getD []).any
      (fun p => framesMeet a n p.frame p.size)))
  ((s.commandsOn d).filter meets).map (·.word)

/-- The last π still to come of the commands of some words; none where all that run have performed. -/
def State.lastPi (s : State) (ws : List WordRef) : Option Nat :=
  (((s.agenda.filterMap Pend.command?).filter (fun x => ws.contains x.1.word && decide (s.now < x.2))).map (·.2)).max?

/-- A command of some words stands suspended. -/
def State.suspendedAmong (s : State) (ws : List WordRef) : Bool :=
  (s.kept.filterMap (fun k => k.pend.command?)).any (fun x => ws.contains x.1.word)

/-- A request in its place: by arrival, and within a count by context (R56). -/
def insertRequest (q : Request) : List Request → List Request
  | [] => [q]
  | x :: rest => if x.at' = q.at' ∧ q.ctx < x.ctx then q :: x :: rest else x :: insertRequest q rest

/-- A request arrives at the scanner of a device. -/
def State.asks (s : State) (d : Nat) (q : Request) : State :=
  (s.modDev d (fun x => { x with requests := insertRequest q x.requests })).schedDev s.now phEnd d .scan

/-- A request to map a page arrives, behind the commands issued by then (R52). DESIGN CHOICE: one that names no page, its frame
misaligned or beyond HBM, has no effect and no answer (log 118). -/
def execMapRequest (dev : Nat) (r : MapReq) (s : State) : Out :=
  let before := if r.exec.isSome then (s.commandsOn dev).map (·.word) else []
  .next (if pageFits r then s.asks dev ⟨s.now, r.ctx, before, .map r⟩ else s)

/-- Firmware asks for a frame to be zeroed and mapped as a plain page (R61). -/
def execFrameMap (dev : Nat) (r : MapReq) (s : State) : Out :=
  .next (if pageFits r && r.exec.isNone then s.asks dev ⟨s.now, r.ctx, [], .frame r⟩ else s)

/-- The page of a context at a virtual address. -/
def State.pageOf? (s : State) (d c va : Nat) : Option Page := (s.ctx d c).pages.find? (fun p => p.va == va)

/-- A request arrives to unmap a page, or to map it to another frame, behind the commands issued by then (R52, R150). -/
def execUnmapRequest (dev ctx va : Nat) (frame : Option Nat) (s : State) : Out :=
  let before := if frame.isSome then (s.commandsOn dev).map (·.word) else []
  .next (s.asks dev ⟨s.now, ctx, before, .unmap va frame⟩)

/-- The scan of an executable page begins, unless the request fails or meets a pinned page (R52, R56, R150). A frame that the
context does not hold is zeroed before the scanner reads it (R61). DESIGN CHOICE: the conflict of R56 is judged here, when the
request is served, and is answered before what a scan finds, so that 0x0F stands before 0x0C and 0x0D where a request fails
for both (log 120), and before the status of a pinned page (log 149). -/
def State.scans (s : State) (d : Nat) (r : MapReq) : State :=
  if s.conflicts d r then (s.answerFailure d r 0 0 0x0F).schedDev s.now phEnd d .scan
  else if s.pinnedAt d r.ctx r.va r.size then (s.answerPinned d).schedDev s.now phEnd d .scan
  else
    let done := s.now + 1 + Config.scanTicks s.free
    ((s.modDev d (fun x => { x.giveFrame r.ctx r.frame r.size false with scan := some ⟨r, s.now, done⟩ })).schedDev done phEnd d .scan).drawn

/-- A page is unmapped, or mapped to another frame: a plain page stays plain and a tensor page becomes one (R151). The
old page of an executable one is gone before the new frame is scanned (log 113). -/
def State.unmaps (s : State) (d c va : Nat) (frame : Option Nat) : State :=
  let again (s : State) : State := s.schedDev s.now phEnd d .scan
  match s.pageOf? d c va with
  | none => again s
  | some p =>
    let rest := s.modCtx d c (fun x => { x with pages := x.pages.filter (fun q => q.va != va) })
    if 0 < p.pins s.now then again (s.answerPinned d)
    else match frame with
      | none => again rest
      | some f =>
        let r : MapReq := ⟨c, va, p.size, f, p.exec, p.writable && p.exec.isNone, false⟩
        if !pageFits r then again s
        else if p.exec.isSome then rest.scans d r
        else again (s.mapPlain d r false)

/-- The frame that a request has scanned when it is served: that of a page which it maps executable, or to which it moves an
executable page. -/
def State.scannedFrame (s : State) (d : Nat) (q : Request) : Option (Nat × Nat) :=
  match q.ask with
  | .map r => if r.exec.isSome then some (r.frame, r.size) else none
  | .frame _ => none
  | .unmap va frame => match s.pageOf? d q.ctx va, frame with
    | some p, some f => if p.exec.isSome then some (f, p.size) else none
    | _, _ => none

/-- The words whose commands hold a request back: issued before it, and yet to perform in the frame that is to be scanned
(R52). -/
def State.holdsBack (s : State) (d : Nat) (q : Request) : List WordRef :=
  match s.scannedFrame d q with
  | none => []
  | some (a, n) => (s.writersOf d a n).filter q.before.contains

/-- The next request is served, where one waits and none is being scanned (R56). It waits until the commands before it that
write the frame to be scanned have performed, those of a suspended itinerary when it has resumed (R52). -/
def State.beginScan (s : State) (d : Nat) : State :=
  match (s.dev d).requests, (s.dev d).scan with
  | q :: rest, none =>
    match s.lastPi (s.holdsBack d q) with
    | some pi => s.schedDev pi phEnd d .scan
    | none =>
      if s.suspendedAmong (s.holdsBack d q) then s
      else
        let s := s.modDev d (fun x => { x with requests := rest })
        match q.ask with
        | .map r => if r.exec.isSome then s.scans d r else (s.mapPlain d r false).schedDev s.now phEnd d .scan
        | .frame r => (s.mapPlain d r true).schedDev s.now phEnd d .scan
        | .unmap va frame => s.unmaps d q.ctx va frame
  | _, _ => s

/-- The scanner of a device: a scan that is due completes, and the next request is begun (R52). A page that has been
pinned meanwhile is not replaced (R150). -/
def execScan (s : State) : Out :=
  let d := s.cur.word.id.dev
  .next (match (s.dev d).scan with
    | none => s.beginScan d
    | some x =>
      if s.now < x.done then s
      else
        let verdict := s.scanVerdict d x.req
        let s := s.modDev d (fun y => { y with scan := none })
        let s := match verdict with
          | none =>
            if s.pinnedAt d x.req.ctx x.req.va x.req.size then s.answerPinned d
            else s.mapPage d { x.req with writable := false, tensor := false } (s.now + 1)
          | some (w, offset, reason) => s.answerFailure d x.req w offset reason
        s.beginScan d)

/-! ## Host writes and image loads (R56, R61, R151, R239) -/

/-- A frame of a device is that of a tensor page. -/
def State.frameTensor (s : State) (d a n : Nat) : Bool :=
  (s.dev d).ctxs.toList.any (fun c => c.pages.any (fun p => p.tensor && framesMeet a n p.frame p.size))

/-- Bytes of HBM written at a physical address; whole lines are clean (R310). -/
def Device.writeFrame (x : Device) (a : Nat) (bs : List Byte) : Device :=
  { x with hbm := writeBytes x.hbm a bs, hbmPoison := poisonAfter x.hbmPoison a bs.length [] }

/-- A host write reaches device memory: refused for executable and tensor frames (R56, R151). DESIGN CHOICE: where HBM has no
such byte (R2) it completes as an Unsupported Request and writes none (log 121). -/
def execHostMemoryWrite (dev addr : Nat) (bytes : List Byte) (s : State) : Out :=
  .next (if s.frameLocked dev addr bytes.length || s.frameTensor dev addr bytes.length ||
      decide (hbmBytes < addr + bytes.length) then s.unsupportedAt dev
    else s.modDev dev (fun x => x.writeFrame addr bytes))

/-- A handle image as the loader completes it: NDM1 and the dimensions from those given, then LOG, LOGSZ, DEPTH and
FROZEN (R239). -/
def loadedHandle (h : BitVec 256) (dims : List Nat) (logAt : Nat) : BitVec 256 :=
  let h := setBits h 33 2 (dims.length - 1)
  let h := (List.range 4).foldl (fun h i => setBits h (160 - 32 * i) 32 (dims.getD i 1)) h
  let units := ceilDiv (4096 + 4 * (hElems h * widthOf (hTag h))) (2 ^ 21)
  setBits (setBits (setBits (setBits h 0 27 (logAt / 2 ^ 21)) 27 6 63) 192 16 units) 255 1 0

/-- The first 4,096 bytes of a log area with an empty chain (R239). -/
def emptyLog (h : BitVec 256) : List Byte :=
  leBytes 3 (hTid h) ++ List.replicate 61 0 ++ (List.range 63).flatMap (fun _ => leBytes 64 absentSlot.toNat)

/-- The pages of a range become tensor pages: each that is plain is unmapped and mapped again (R151). -/
def State.makeTensor (s : State) (d c va n : Nat) : State :=
  s.modCtx d c (fun x => { x with pages := x.pages.map (fun p =>
    if framesMeet va n p.va p.size && !p.tensor && p.exec.isNone then { p with tensor := true, lapsing := [] } else p) })

/-- One tensor image laid down: its pages become tensor pages, which a pinned plain page refuses, and its handle, view and
log area are written (R150, R151, R239). -/
def State.loadTensor (s : State) (d c : Nat) (t : TensorImage) : State :=
  let h := loadedHandle t.handle t.dims t.logAt
  let n := hElems h * widthOf (hTag h)
  let base := t.bytes.take n
  if (s.pagesAt d c (hBase h) n).any (fun p => !p.tensor && decide (0 < p.pins s.now)) then s.answerPinned d
  else
    ((((s.makeTensor d c (hBase h) n).writeHbm d c t.handleAt (leBytes 32 h.toNat)).writeHbm d c (hBase h) base).writeHbm
      d c (hLog h) (emptyLog h)).writeHbm d c (hLog h + 4096) base

/-- An itinerary image is loaded in a context (R59, R61, R239): its HBM parts are laid down now, SP and LOFT images and the
tables are kept for its departures. -/
def execImageLoad (dev ctx : Nat) (im : ItinImage) (s : State) : Out :=
  let s := (im.data.filter (fun x => x.space == .hbm)).foldl (fun s x => s.writeHbm dev ctx x.addr x.bytes) s
  let s := im.tensors.foldl (fun s t => s.loadTensor dev ctx t) s
  .next (s.modCtx dev ctx (fun x => { x with images := im :: x.images.filter (fun y => y.legt != im.legt) }))

/-! ## Errors (R309, R310, R315, R316) -/

/-- The SP bank of a line (R153). -/
def spBankOf (line : Nat) : Nat := (line ^^^ (line >>> 5)) % 32

/-- The bucket that an error of a unit charges, with its core (R315; log 26). -/
def unitBucket : UnitId → Option (CoreId × BucketKind × Nat)
  | .spLine id l => some (id, .spBank, spBankOf l)
  | .loftLine id l => some (id, .loftSlice, 64 * l / 65536)
  | .tile id i => some (id, .tileBank, i % 6)
  | .weight id _ row i => some (id, if row then .mxRow else .mxCol, i)
  | .split id bank _ => some (id, .splitBank, bank)
  | .vxLanes id => some (id, .vxLanes, 0)
  | .queue _ _ _ _ | .latch _ _ | .hbmLine _ _ | .linkFlit _ _ => none

/-- The core that a unit belongs to. -/
def unitCore : UnitId → Option CoreId
  | .spLine id _ | .loftLine id _ | .tile id _ | .queue id _ _ _ | .latch id _ | .weight id _ _ _ | .split id _ _
  | .vxLanes id => some id
  | .hbmLine _ _ | .linkFlit _ _ => none

/-- An error strikes a unit: its core has an entry of its own from now on. -/
def State.struck (s : State) (u : UnitId) : State := ((unitCore u).map s.listed).getD s

/-- The bucket of a unit is charged. -/
def State.chargeUnit (s : State) (u : UnitId) (w : Nat → Nat) : State :=
  match unitBucket u with
  | some (id, k, i) => s.charge id k i (w id.dev)
  | none => s

/-- A corrected error changes no value: it charges WC, or counts a corrected flit (R272, R309). -/
def execCorrectedError (u : UnitId) (s : State) : Out :=
  .next (match u with
    | .linkFlit d l => s.modLink d l (fun x => { x with fecc := bumpLost x.fecc })
    | u => (s.struck u).chargeUnit u s.wc)

/-- A unit marked as poisoned (R309). -/
def State.poisonUnit (s : State) : UnitId → State
  | .spLine id l => s.modCore id (fun c => { c with spPoison := l :: c.spPoison.filter (· != l) })
  | .loftLine id l => s.modCore id (fun c => { c with loftPoison := l :: c.loftPoison.filter (· != l) })
  | .tile id i => s.modCore id (fun c => { c with t := vset c.t i { vget tileZero c.t i with poison := true } })
  | .queue id result q i => s.modCore id (fun c =>
      c.setQueue result q ((c.queue result q).zipIdx.map (fun e =>
        if e.2 = i then { e.1 with tile := { e.1.tile with poison := true } } else e.1)))
  | .latch id i => s.modCore id (fun c =>
      { c with latches := vset c.latches i { vget tileZero c.latches i with poison := true } })
  | .weight id b _ _ => s.modCore id (fun c =>
      { c with wbuf := vset c.wbuf b { vget weightsFresh c.wbuf b with poison := true } })
  | .split id b a => s.modCore id (fun c => { c with split := (b, a) :: c.split.filter (· != (b, a)) })
  | .vxLanes _ => s
  | .hbmLine d l => s.modDev d (fun x => { x with hbmPoison := l :: x.hbmPoison.filter (· != l) })
  | .linkFlit _ _ => s

/-- An uncorrectable error poisons its unit and charges WU (R309, R316). -/
def execUncorrectableError (u : UnitId) (s : State) : Out := .next (((s.struck u).poisonUnit u).chargeUnit u s.wu)

/-- A bucket loses 1. -/
def leaked (b : BitVec 16) : BitVec 16 := if b = 0 then 0 else b - 1

/-- Every 2^RASLEAK ticks each nonzero bucket of a device loses 1 (R316). -/
def execBucketLeak (s : State) : Out :=
  let d := s.cur.word.id.dev
  let drain (x : CoreId × Core) : CoreId × Core :=
    if x.1.dev = d then (x.1, { x.2 with buckets := x.2.buckets.map (fun b => (b.1, leaked b.2)) }) else x
  let s := { s with cores := s.cores.map drain }
  let s := s.modDev d (fun x => { x with clusters := x.clusters.map (fun b => (b.1, leaked b.2)) })
  .next (s.schedDev (s.now + 2 ^ (s.dev d).rasleak.toNat) phEnd d .bucketLeak)

/-! ## Group holds (R84, R326, R329) -/

/-- The leader broadcasts a hold at a count: it starts at least 4,096 counts later (R84; log 12). -/
def State.requestHold (s : State) (t ticks extra : Nat) (cause : HoldCause) : State :=
  let start := t + 4096 + Config.holdLead s.free
  (s.schedDev start phControl 0 (.groupHold start ticks extra cause)).drawn

/-- While the fill of a member stands at the mark, the leader requests a hold every 4,096 ticks (R326). -/
def execLosslessHoldRequest (s : State) : Out :=
  .next (if (List.range s.size).any (fun d => (s.dev d).wantsHold) then
      let e := field (s.dev 0).spctl 16 4
      let s := if e = 0 then s else s.requestHold s.now 4096 e .trace
      s.schedDev (s.now + 4096) phEnd 0 .losslessHoldRequest
    else s)

/-- Every 2^16 ticks a device's power is compared with PWRCAP; an excess requests a hold (R329). -/
def execPowerCheck (s : State) : Out :=
  let d := s.cur.word.id.dev
  let watts := Config.modulePower s.free
  let cap := (s.dev d).pwrcap.toNat
  let s := s.drawn
  let s := if cap < watts then
      s.requestHold (s.now + s.controlLatency d 0) 65536 (max 1 (Config.expertPulses (watts - cap)).toNat) .power
    else s
  .next (s.schedDev (s.now + 2 ^ 16) phEnd d .powerCheck)

/-- The emergency thermal trip holds its device locally (R84), and its hold is recorded (R325; log 98). DESIGN CHOICE: the spec
gives the hold no end, and every later tick of the device is held until a device reset (log 134). -/
def execThermalTrip (dev : Nat) (s : State) : Out :=
  .next (((s.modDev dev (fun x => { x with tripped := true })).spoorDev dev .drover 5
    ((Config.tripHold s.free &&& 0xFFFF000F).setWidth 128)).drawn)

/-! ## Bring-up (R318, R328, R330) -/

/-- BOOTST with its first n bits set. -/
def bootBits (n : Nat) : BitVec 6 := BitVec.ofNat 6 (2 ^ min n 6 - 1)

/-- A step of bring-up is among those done now. -/
def newStep (old new : BitVec 6) (i : Nat) : Bool := new.getLsbD i && !old.getLsbD i

/-- The links of a device are trained (R330). -/
def Device.trained (x : Device) : Device := { x with links := x.links.map (fun l => { l with up := true }) }

/-- A sparing map obeys R318: distinct physical cores of the 136, none of them marked failed, for 128 logical cores or for
as many as the device still fills. -/
def sparingOk (failed m : List Nat) : Bool :=
  decide (m.length ≤ 128) && decide m.Nodup && m.all (fun x => decide (x < 136) && !failed.contains x)

/-- The sparing map is written: its entries are the physical cores that the logical cores take (R318). -/
def Device.spared (x : Device) (m : List Nat) : Device :=
  { x with spmap := Vector.ofFn (fun i => BitVec.ofNat 8 (m.getD i.val 0)), working := m.length }

/-- Cores marked failed, in the fuses or by firmware (R318). -/
def Device.marksFailed (x : Device) (failed : List Nat) : Device :=
  { x with failed := x.failed ++ failed.filter (fun i => !x.failed.contains i) }

/-- The steps that can pass: step 2 needs a sparing map that R318 allows, step 4 a formed group (R330). -/
def State.bootSteps (s : State) (dev steps : Nat) (spmap : List Nat) : Nat :=
  let x := s.dev dev
  let steps := if x.bootst.getLsbD 2 || sparingOk x.failed spmap then steps else min steps 2
  if s.formed then steps else min steps 4

/-- A step that a device takes by itself. -/
def deviceStep : Instr → Bool
  | .powerCheck | .bucketLeak | .paceLoss | .droverServe | .queueAging | .scan => true
  | _ => false

/-- A device is reset: its registers and tables, its cores, and what it does by itself (R318, R327, R328). -/
def State.resetDev (s : State) (dev : Nat) : State :=
  { s.modDev dev Device.afterReset with
    cores := s.cores.filter (fun x => x.1.dev != dev),
    agenda := s.agenda.filter (fun p => !(p.who.dev == dev && deviceStep p.act)) }

/-- Bring-up goes on: the first `steps` steps have passed, the next one has failed or not been tried, and firmware has
marked cores as failed. With its first step the periodic checks of R316 and R329 begin. Power-good before any step of a
device on which no itinerary stands is its reset (log 86). -/
def execBringUp (dev steps : Nat) (digest : BitVec 256) (cores : CoreReport) (s : State) : Out :=
  let s := s.modDev dev (fun x => x.marksFailed cores.failed)
  let old := (s.dev dev).bootst
  let new := old ||| bootBits (s.bootSteps dev steps cores.spmap)
  if steps = 0 then
    .next (if old = 0 || s.runs.any (fun r => r.2.live && r.2.members.any (·.1 == dev)) then s else s.resetDev dev)
  else
    let s := s.modDev dev (fun x =>
      let x := { x with bootst := new }
      let x := if newStep old new 0 then
          { x with measurements := vset x.measurements 0 (extended (vget 0 x.measurements 0) (leBytes 32 digest.toNat)) }
        else x
      let x := if newStep old new 2 then x.spared cores.spmap else x
      if newStep old new 3 then x.trained else x)
    .next (if newStep old new 0 then
        (s.schedDev (s.now + 2 ^ (s.dev dev).rasleak.toNat) phEnd dev .bucketLeak).schedDev (s.now + 2 ^ 16) phEnd dev
          .powerCheck
      else s)

/-! ## Security (R328) -/

/-- A signed fuse command moves MANUFACTURE to PRODUCTION. -/
def execFuseCommand (dev : Nat) (signed : Bool) (s : State) : Out :=
  .next (s.modDev dev (fun x => if signed && x.life == 0 then x.enterLife lifeProduction else x))

/-- A signed RMA command moves PRODUCTION to RMA and wipes every tenant key. -/
def execRmaCommand (dev : Nat) (signed : Bool) (s : State) : Out :=
  .next (s.modDev dev (fun x =>
    if signed && x.life == lifeProduction then { x.enterLife 3 with tenantKeys := [] } else x))

/-- An attestation report signs the nonce, DEVID, LIFE and the measurement registers (log 13). -/
def execAttestationRequest (dev : Nat) (nonce : BitVec 256) (s : State) : Out :=
  .next (s.modDev dev (fun x =>
    let all := x.measurements.toList.foldl (fun n m => n * 2 ^ 256 + m.toNat) 0
    { x with reports := x.reports ++ [(nonce, Config.signature nonce.toNat x.devid.toNat x.life.toNat all)] }))

/-- An unlock token is verified: it must be signed and bound to DEVID, LIFE and the controller's nonce (R328). -/
def execUnlockToken (dev : Nat) (devid life : Reg) (nonce : BitVec 256) (signed : Bool) (s : State) : Out :=
  .next (s.modDev dev (fun x =>
    let ok := signed && devid == x.devid && life == x.life.setWidth 64 && nonce == Config.nonce x.nonceNo
    { x with tokenOk := ok, wipedSince := false, nonceNo := x.nonceNo + 1 }))

end Sys2Proof.Machine
end

