-- ==== Sys2Proof/Machine/Matrix.lean ====
section
/-! DEFINITION. The matrix engine (R205–R223). -/

namespace Sys2Proof.Machine

/-! ## Formats and sizes (R45, R208, R210, R212) -/

/-- The formats of a product: weights and activations. -/
def productFmts : Nat → Tag × Tag
  | 0 => (.e4m3, .e4m3)
  | 1 => (.e4m3, .e5m2)
  | 2 => (.e5m2, .e4m3)
  | 3 => (.e5m2, .e5m2)
  | 4 => (.bf16, .bf16)
  | _ => (.f16, .f16)

/-- The weight format of the f field of mwld. -/
def weightFmt : Nat → WFmt
  | 0 => .e4m3
  | 2 => .e5m2
  | 4 => .bf16
  | _ => .f16

/-- The tag of a weight format. -/
def wTag : WFmt → Tag
  | .e4m3 => .e4m3 | .e5m2 => .e5m2 | .bf16 => .bf16 | .f16 => .f16

/-- The mode of an sm field. -/
def smode : Nat → SMode
  | 0 => .dense
  | 1 => .s24
  | 2 => .cb
  | _ => .cb24

/-- A mode with two weights in each group of four. -/
def isS24 (m : SMode) : Bool := m == .s24 || m == .cb24

/-- A mode with live columns. -/
def isCb (m : SMode) : Bool := m == .cb || m == .cb24

/-- The length of an activation vector (R208). -/
def vecLen (m : SMode) : Nat := if isS24 m then 256 else 128

/-- V of a product of element width w (R208). -/
def vecCount (col : Bool) (m : SMode) (w : Nat) : Nat := if col then 64 / w else 4096 / (vecLen m * w)

/-- The columns of a buffer that a product writes: all of them in dense and s24 (log 39). -/
def liveCol (b : WBuf) (n : Nat) : Bool := !isCb b.mode || b.bitmap.getLsbD n

/-- A weight buffer. -/
def Core.wb (c : Core) (i : Nat) : WBuf := vget weightsFresh c.wbuf i

/-- A weight buffer set. -/
def Core.setWb (c : Core) (i : Nat) (b : WBuf) : Core := { c with wbuf := vset c.wbuf i b }

/-- An accumulator row. -/
def Core.accRow (c : Core) (acc row : Nat) : AccRow := vget 0 (vget (Vector.replicate 128 0) c.acc acc) row

/-- An accumulator row set. -/
def Core.setAccRow (c : Core) (acc row : Nat) (v : AccRow) : Core :=
  { c with acc := vset c.acc acc (vset (vget (Vector.replicate 128 0) c.acc acc) row v) }

/-! ## Leases of MX (R210) -/

/-- A lease of the word being executed that ends before its ρ: until `till` ticks after issue, with result tick λ. -/
def State.leaseTill (s : State) (fam lo hi lam till : Nat) : State :=
  s.modMe (fun c => { c with leases :=
    ⟨fam, lo, hi, s.cur.word.eng, s.tick, s.tick + lam, s.now + till⟩ :: c.leases.filter (fun x => s.now < x.till) })

/-- A buffer is under no mwld lease. -/
def bufferChk (c : Core) (now b : Nat) : Check := leaseChk c now 8 b b

/-- A buffer is under no lease at all, as mwld and msparse need it. -/
def loadChks (c : Core) (now b : Nat) : List Check := [bufferChk c now b, leaseChk c now 9 b b]

/-! ## Loads (R213) -/

/-- nb of a load (R210). -/
def loadBeats (f : WFmt) (m : SMode) : Nat := 8 * widthOf (wTag f) + (if isS24 m then 2 else 0)

/-- mwld b, wfmt, off, mode. -/
def execMwld (_g : BitVec 4) (b : Bool) (f : BitVec 3) (m : BitVec 2) (o : BitVec 11) (s : State) : Out :=
  let c := s.me
  let fmt := weightFmt f.toNat
  let mode := smode m.toNat
  let nb := loadBeats fmt mode
  let off := 32 * o.toNat
  let buf := b.toNat
  s.word (loadChks c s.now buf ++
      [chk (decide (65536 < off + 16 * nb)) 0x10 (addrDetail .loft off), chk (decide (s.now < c.loftFree)) 0x15 0])
    (fun s =>
      let s := s.lease 8 buf buf (16 + nb)
      let s := s.modMe (fun c => { c.accessAt (s.now + 11 + nb) with loftFree := s.now + nb })
      let job : MwldJob :=
        { buf := buf, fmt := fmt, mode := mode, off := off, nb := nb,
          live := if isCb mode then (c.wb buf).bitmap else BitVec.allOnes 128,
          cols := Vector.replicate 128 0, idx := Vector.replicate 128 0 }
      s.sched (s.now + 12) phRead (.accessPerform (.mwldBeat s.cur.word job 0)))

/-- Byte address of 16 bytes of a column at a beat (R207). -/
def mwldAddr (j : MwldJob) (col b : Nat) : Nat := col * 65536 + j.off + 16 * b

/-- The live columns of a load. -/
def mwldColumns (j : MwldJob) : List Nat := (List.range 128).filter (fun n => j.live.getLsbD n)

/-- Beat b has read its bytes: weights first, then the index vector. -/
def mwldTook (j : MwldJob) (loft : Memory) (b : Nat) : MwldJob :=
  let wbytes := 128 * widthOf (wTag j.fmt)
  let read (n : Nat) : Nat := if j.live.getLsbD n then leNat (readBytes loft (mwldAddr j n b) 16) else 0
  if 16 * b < wbytes then
    { j with cols := Vector.ofFn (fun n => vget 0 j.cols n.val ||| BitVec.ofNat 2048 (read n.val <<< (128 * b))) }
  else
    { j with idx := Vector.ofFn (fun n =>
        vget 0 j.idx n.val ||| BitVec.ofNat 256 (read n.val <<< (8 * (16 * b - wbytes)))) }

/-- A nibble of an index vector has p0 < p1 (R207). -/
def nibbleOk (idx : BitVec 256) (g : Nat) : Bool := decide (field idx (4 * g) 2 < field idx (4 * g + 2) 2)

/-- Every group of every live column has p0 < p1. -/
def mwldIndexOk (j : MwldJob) : Bool :=
  !isS24 j.mode || (mwldColumns j).all (fun n => (List.range 64).all (nibbleOk (vget 0 j.idx n)))

/-- Beat b of a load reads (R213). -/
def performMwldBeat (w : WordRef) (j : MwldJob) (b : Nat) (s : State) : State :=
  let ctx := s.ctxW w
  s.perform w ((mwldColumns j).flatMap (fun n =>
      [s.poisonChk w.id ctx .loft (mwldAddr j n b) 16, s.watchChk w .loft (mwldAddr j n b) 16 false])) (fun s =>
    let j := mwldTook j (s.coreAt w.id).loft b
    if b + 1 < j.nb then s.sched (s.now + 1) phRead (.accessPerform (.mwldBeat w j (b + 1)))
    else if mwldIndexOk j then s.sched (s.now + 4) phResult (.leasedResult w (.wbuf j))
    else s.sched (s.now + 5) phControl (.leasedResult w (.fault 0x22 0)))

/-- The buffer that a load writes at ρ − 1 (R213). DESIGN CHOICE: a column that is not live keeps its index vector, as every
column does at a load without indices (log 152). -/
def performWbuf (w : WordRef) (j : MwldJob) (s : State) : State :=
  s.modCore w.id (fun c =>
    let b := c.wb j.buf
    c.setWb j.buf { b with
      cols := j.cols, fmt := j.fmt, mode := j.mode, poison := false,
      idx := if isS24 j.mode then Vector.ofFn (fun n => if j.live.getLsbD n.val then vget 0 j.idx n.val else
        vget 0 b.idx n.val) else b.idx })

/-! ## Scales, bitmaps, drain configuration (R214–R216) -/

/-- The check of the control resource (R209). -/
def controlChk (c : Core) (now : Nat) : Check := chk (decide (now < c.controlFree)) 0x15 0

/-- The oldest ready entry of an operand queue. -/
def Core.headTile (c : Core) (now q : Nat) : Tile := ((c.readyHead now false q).map (·.tile)).getD tileZero

/-- A control word that pops an entry of a tag and writes at its issue. -/
def State.controlPop (s : State) (q : BitVec 3) (tag : Tag) (chks : Tile → List Check) (f : Tile → Core → Core) : Out :=
  let c := s.me
  let t := c.headTile s.now q.toNat
  s.word ([popChk c s.now false q.toNat, controlChk c s.now, fmtChk tag t] ++ chks t)
    (fun s => s.modMe (fun c => f t { c.popped false q.toNat with controlFree := s.now + 1 }))

/-- ASC written from the first 128 elements of an image (R215). -/
def Core.setAsc (c : Core) (t : Tile) : Core := { c with asc := t.data.setWidth 4096 }

/-- WSC of a buffer written from an element of an image (R215). -/
def Core.setWsc (c : Core) (b : Nat) (t : Tile) (i : Nat) : Core :=
  c.setWb b { c.wb b with wsc := t.data.extractLsb' (32 * i) 32 }

/-- mscl qi, act. -/
def execMsclAct (_g : BitVec 4) (q : BitVec 3) (s : State) : Out :=
  s.controlPop q .f32 (fun _ => []) (fun t c => c.setAsc t)
/-- mscl qi, wt0. -/
def execMsclWt0 (_g : BitVec 4) (q : BitVec 3) (s : State) : Out :=
  s.controlPop q .f32 (fun _ => []) (fun t c => c.setWsc 0 t 0)
/-- mscl qi, wt1. -/
def execMsclWt1 (_g : BitVec 4) (q : BitVec 3) (s : State) : Out :=
  s.controlPop q .f32 (fun _ => []) (fun t c => c.setWsc 1 t 0)
/-- mscl qi, all. -/
def execMsclAll (_g : BitVec 4) (q : BitVec 3) (s : State) : Out :=
  s.controlPop q .f32 (fun _ => []) (fun t c => ((c.setAsc t).setWsc 0 t 128).setWsc 1 t 129)

/-- The number of ones of a bitmap. -/
def popcount {w : Nat} (v : BitVec w) : Nat := (List.range w).countP (fun i => v.getLsbD i)

/-- msparse b, qi, L: the ones of a bitmap are counted where its entry was not poisoned (R78). -/
def execMsparse (_g : BitVec 4) (b : Bool) (q : BitVec 3) (l : BitVec 8) (s : State) : Out :=
  s.controlPop q .u8
    (fun t => loadChks s.me s.now b.toNat ++ [chk (!t.poison && popcount (t.data.setWidth 128) != l.toNat) 0x22 0])
    (fun t c => c.setWb b.toNat { c.wb b.toNat with bitmap := t.data.setWidth 128, live := l })

/-- mcfg dfmt, rm, nv. -/
def execMcfg (_g : BitVec 4) (v : Bool) (r : BitVec 2) (f : BitVec 3) (s : State) : Out :=
  s.word [controlChk s.me s.now] (fun s => s.modMe (fun c =>
    { c with mcfg := (0#5 ++ BitVec.ofBool v ++ r ++ f), controlFree := s.now + 1 }))

/-! ## Products (R137, R138, R208, R217–R219, R222) -/

/-- The activation vectors of the popped entries (R208). -/
def vectorsOf (col : Bool) (m : SMode) (w : Nat) (entries : List Tile) : List (List (BitVec 16)) :=
  let xs := (entries.flatMap (fun t => elems w t.data)).toArray
  let n := vecLen m
  (List.range (vecCount col m w)).map (fun v => (List.range n).map (fun k =>
    BitVec.ofNat 16 (xs.getD (if col then 64 / w * k + v else n * v + k) 0)))

/-- A product word as its fields give it: direction, format, order, mode, queue, the buffers it reads each with the
accumulator it feeds, the row group, and the result queue of a known-answer form. -/
structure ProductForm where
  fwd : Bool
  fmt : BitVec 3
  col : Bool
  mode : SMode
  q : Nat
  srcs : List (Nat × Nat)
  group : Nat
  known : Option Nat

/-- Entries that a product word pops (R208). -/
def Core.entriesOf (c : Core) (now : Nat) (k : ProductForm) : List Tile × List Check × Core :=
  let a := c.headTile now k.q
  let c' := c.popped false k.q
  if k.col then
    if isS24 k.mode then ([], [], c)
    else ([a, c'.headTile now k.q], [popChk c now false k.q, popChk c' now false k.q], c'.popped false k.q)
  else ([a], [popChk c now false k.q], c')

/-- The operand-format checks of a product word (R208, R217, R218). -/
def productChks (c : Core) (k : ProductForm) : List Check :=
  let f := productFmts k.fmt.toNat
  [chk (k.col && isS24 k.mode) 0x22 0,
   chk (k.srcs.any (fun x => (c.wb x.1).mode != k.mode || wTag (c.wb x.1).fmt != f.1)) 0x22 0,
   chk (isCb k.mode && k.srcs.any (fun x => decide (64 < (c.wb x.1).live.toNat))) 0x22 0]

/-- A product word issues (R209, R210, R217, R218, R222). -/
def State.products (s : State) (k : ProductForm) : Out :=
  let c := s.me
  let f := productFmts k.fmt.toNat
  let w := widthOf f.2
  let x := c.entriesOf s.now k
  let v := vecCount k.col k.mode w
  let cyc := if k.fmt.toNat < 4 then 1 else 4
  let occ := cyc * v
  let lam := (if k.known.isSome then 273 else 271) + cyc * (v - 1)
  s.word (x.2.1 ++ k.srcs.map (fun y => bufferChk c s.now y.1) ++ [chk (decide (s.now < c.arrayFree)) 0x15 0] ++
      x.1.map (fmtChk f.2) ++ productChks c k ++
      k.srcs.map (fun y => chk (c.wb y.1).poison 0x42 (unitDetail 4 y.1)))
    (fun s =>
      let job : Product :=
        { fwd := k.fwd, fmt := k.fmt, mode := k.mode, srcs := k.srcs.map (fun y => (c.wb y.1, y.2)), known := k.known,
          vecs := vectorsOf k.col k.mode w x.1, row0 := k.group * v, asc := c.asc }
      let s := s.modMe (fun _ => { x.2.2 with arrayFree := s.now + occ })
      let s := k.srcs.foldl (fun s y => s.leaseTill 9 y.1 y.1 lam (occ + 128)) s
      let s := if k.known.isSome then s
        else k.srcs.foldl (fun s y =>
          s.lease 7 (128 * y.2 + job.row0) (128 * y.2 + job.row0 + v - 1) lam) s
      s.sched (s.now + lam - 1) phResult (.leasedResult s.cur.word (.product job)))

/-- The buffers of a forward product (R217). -/
def fwdSources (m : SMode) (c u : Bool) : List (Nat × Nat) :=
  if isCb m then [(0, 0), (1, 1)] else [(u.toNat, c.toNat)]

/-- mfwd. -/
def execMfwd (_g : BitVec 4) (c : Bool) (f : BitVec 3) (o : Bool) (m : BitVec 2) (q : BitVec 3) (u : Bool)
    (r : BitVec 4) (s : State) : Out :=
  s.products ⟨true, f, o, smode m.toNat, q.toNat, fwdSources (smode m.toNat) c u, r.toNat, none⟩

/-- mbwd. -/
def execMbwd (_g : BitVec 4) (c : Bool) (f : BitVec 3) (o : Bool) (q : BitVec 3) (u : Bool) (r : BitVec 4)
    (s : State) : Out :=
  s.products ⟨false, f, o, .dense, q.toNat, [(u.toNat, c.toNat)], r.toNat, none⟩

/-- mkfwd. -/
def execMkfwd (_g : BitVec 4) (f : BitVec 3) (o m : Bool) (q : BitVec 3) (u : Bool) (r : BitVec 2) (s : State) : Out :=
  s.products ⟨true, f, o, if m then .s24 else .dense, q.toNat, [(u.toNat, 0)], 0, some r.toNat⟩

/-- mkbwd. -/
def execMkbwd (_g : BitVec 4) (f : BitVec 3) (o : Bool) (q : BitVec 3) (u : Bool) (r : BitVec 2) (s : State) : Out :=
  s.products ⟨false, f, o, .dense, q.toNat, [(u.toNat, 0)], 0, some r.toNat⟩

/-- The weight at physical row r of a column. -/
def colWeight (w : Nat) (col : BitVec 2048) (r : Nat) : Nat := field col (8 * w * r) (8 * w)

/-- The logical row of a physical row (R207). -/
def logicalRow (m : SMode) (idx : BitVec 256) (r : Nat) : Nat :=
  if isS24 m then 4 * (r / 2) + field idx (4 * (r / 2) + 2 * (r % 2)) 2 else r

/-- The terms of output column n: activation index and weight, in chain order (R217, R218). -/
def productTerms (fwd : Bool) (m : SMode) (b : WBuf) (n : Nat) : List (Nat × Nat) :=
  let w := widthOf (wTag b.fmt)
  if fwd then
    let col := vget 0 b.cols n
    let idx := vget 0 b.idx n
    (List.range 128).map (fun r => (logicalRow m idx r, colWeight w col r))
  else (List.range 128).map (fun j => (j, colWeight w (vget 0 b.cols j) n))

/-- The sum S of a block of products (R137): exact where all are finite, else the IEEE sum of the others. -/
def blockSum (xs : List Val) : Val :=
  let fin := xs.foldl (fun (acc : Int) x => match x with
    | .fin n m e => acc + scaled n m e (-40)
    | _ => acc) 0
  xs.foldl (fun acc x => match x with
    | .fin _ _ _ => acc
    | x => match acc with
      | .fin _ _ _ => x
      | y => addV .rne y x) (.fin (fin < 0) fin.natAbs (-40))

/-- One element of an FP8 product (R137): the new accumulator value, its flags, the k-step of a NaN. -/
def fp8Element (wsc asc : Nat) (acc : Nat) (terms : List (Val × Val)) : Nat × BitVec 5 × Option Nat :=
  let sum := blockSum (terms.map (fun t => mulV t.1 t.2))
  let sc := rne fF32 (mulV (valOf fF32 wsc) (valOf fF32 asc))
  let v := rne fF32 (mulV sum (valOf fF32 sc.bits))
  let r := rne fF32 (addV .rne (valOf fF32 acc) (valOf fF32 v.bits))
  (r.bits, sc.flags ||| v.flags ||| r.flags, if r.nan then some 0 else none)

/-- One element of a BF16 or FP16 product (R138). -/
def chainElement : Nat → Nat → List (Val × Val) → Nat × BitVec 5 × Option Nat
  | _, acc, [] => (acc, 0, none)
  | k, acc, t :: ts =>
    let r := rne fF32 (addV .rne (valOf fF32 acc) (mulV t.1 t.2))
    let q := chainElement (k + 1) r.bits ts
    (q.1, r.flags ||| q.2.1, if r.nan then some k else q.2.2)

/-- Element n of a row of a product. -/
def productElement (p : Product) (b : WBuf) (row : Nat) (vec : Array (BitVec 16)) (terms : List (Nat × Nat))
    (acc : Nat) : Nat × BitVec 5 × Option Nat :=
  let f := productFmts p.fmt.toNat
  let fw := (fmtOf f.1).getD fF32
  let fa := (fmtOf f.2).getD fF32
  let vals := terms.map (fun t => (valOf fw t.2, valOf fa ((vec.getD t.1 0).toNat)))
  if p.fmt.toNat < 4 then fp8Element b.wsc.toNat (field p.asc (32 * row) 32) acc vals
  else chainElement 0 acc vals

/-- One row of a product: the new row, flags, the NaNs with their coordinates. -/
def productRow (p : Product) (b : WBuf) (terms : List (List (Nat × Nat))) (row : Nat) (vec : List (BitVec 16))
    (old : AccRow) : AccRow × BitVec 5 × List (Nat × Nat × Nat) :=
  let a := vec.toArray
  let rs := ((List.range 128).zip terms).map (fun x =>
    let o := field old (32 * x.1) 32
    (x.1, if p.fwd && !liveCol b x.1 then (o, 0, none) else productElement p b row a x.2 o))
  (BitVec.ofNat 4096 (rs.foldr (fun r acc => acc * 2 ^ 32 + r.2.1) 0),
   rs.foldl (fun m r => m ||| r.2.2.1) 0,
   rs.filterMap (fun r => r.2.2.2.map (fun k => (k, row, r.1))))

/-- The rows that a product gives from the accumulators as they stand: (accumulator, row, value), flags, NaNs. -/
def productRows (p : Product) (old : Nat → Nat → AccRow) : List (Nat × Nat × AccRow) × BitVec 5 ×
    List (Nat × Nat × Nat) :=
  let parts := p.srcs.flatMap (fun x =>
    let terms := (List.range 128).map (productTerms p.fwd p.mode x.1)
    ((List.range p.vecs.length).zip p.vecs).map (fun v =>
      let row := p.row0 + v.1
      (x.2, row, productRow p x.1 terms row v.2 (old x.2 row))))
  (parts.map (fun r => (r.1, r.2.1, r.2.2.1)), parts.foldl (fun m r => m ||| r.2.2.2.1) 0,
   parts.flatMap (fun r => r.2.2.2.2))

/-- The entry of a known-answer form: the rows of S joined by exclusive OR (R222). -/
def knownEntry (rows : List (Nat × Nat × AccRow)) : Image :=
  (List.range 8).foldl (fun acc i =>
    let x := (rows.filter (fun r => r.2.1 % 8 == i)).foldl (fun m r => m ^^^ r.2.2) (0 : AccRow)
    acc ||| (x.setWidth 32768 <<< (4096 * i))) 0

/-- A product performs at ρ − 1, or its first NaN follows at ρ (R210, R219, R222). -/
def performProduct (w : WordRef) (p : Product) (s : State) : State :=
  let c := s.coreAt w.id
  let r := productRows p (fun acc row => if p.known.isSome then 0 else c.accRow acc row)
  match firstNan r.2.2 with
  | some k => s.sched (s.now + 1) phControl (.leasedResult w (.fault 0x20 (nanDetail k)))
  | none =>
    let s := s.modCore w.id (fun c => c.orMx r.2.1)
    match p.known with
    | none => s.modCore w.id (fun c => r.1.foldl (fun c x => c.setAccRow x.1 x.2.1 x.2.2) c)
    | some q => s.enqueue true q ⟨{ data := knownEntry r.1, tag := .i32, poison := false }, s.now + 1, w, c.newFlags .mx r.2.1, []⟩

/-! ## Clearing and draining (R220, R221) -/

/-- mclr acc. -/
def execMclr (_g : BitVec 4) (c : Bool) (s : State) : Out :=
  s.word [chk (decide (s.now < s.me.arrayFree)) 0x15 0] (fun s =>
    let s := (s.modMe (fun x => { x with arrayFree := s.now + 1 })).lease 7 (128 * c.toNat) (128 * c.toNat + 127) 271
    s.sched (s.now + 270) phResult (.leasedResult s.cur.word (.accClear c.toNat)))

/-- An accumulator cleared. -/
def performAccClear (w : WordRef) (acc : Nat) (s : State) : State :=
  s.modCore w.id (fun c => { c with acc := vset c.acc acc (Vector.replicate 128 0) })

/-- The first leased row among those of a drain. -/
def rowsLeased (c : Core) (now acc first n : Nat) : Check :=
  ((List.range n).map (fun i => leaseChk c now 7 (128 * acc + first + i) (128 * acc + first + i))).findSome? id

/-- mdrain oi, acc, g, z: the entry is in its queue from the issue on, with ready tick t + 8, and the flags follow at t + 7
(R221). DESIGN CHOICE: a first NaN has k-step 0, its accumulator row and its column (log 138). -/
def execMdrain (_g : BitVec 4) (c : Bool) (q : BitVec 2) (z : Bool) (r : BitVec 4) (s : State) : Out :=
  let x := s.me
  let acc := c.toNat
  let tag := floatTag (field x.mcfg 0 3)
  let rm := rmodeOf (x.mcfg.extractLsb' 3 2)
  let nv := x.mcfg.getLsbD 5
  let w := max 1 (widthOf tag)
  let p := 4096 / (128 * w)
  let first := r.toNat * p
  s.word [if first < 128 then rowsLeased x s.now acc first p else none, controlChk x s.now,
      chk (decide (128 ≤ first)) 0x22 0]
    (fun s =>
      let rows := (List.range p).map (fun i => x.accRow acc (first + i))
      let rs := rows.flatMap (fun v => (List.range 128).map (fun n =>
        convertElem .f32 tag rm nv (field v (32 * n) 32)))
      let s := s.modMe (fun c => { c with controlFree := s.now + 1 })
      match rs.findIdx? (·.nan) with
      | some i =>
        s.sched (s.now + 8) phControl (.leasedResult s.cur.word (.fault 0x20 (nanDetail (0, first + i / 128, i % 128))))
      | none =>
        let s := if z then s.modMe (fun c => (List.range p).foldl (fun c i => c.setAccRow acc (first + i) 0) c) else s
        let s := s.enqueue true q.toNat
          ⟨{ data := ofElems w (rs.map (·.bits)), tag := tag, poison := false }, s.now + 8, s.cur.word, 0, []⟩
        s.sched (s.now + 7) phResult (.leasedResult s.cur.word (.vx
          { tiles := [], mask := none, push := none, flags := rs.foldl (fun m r => m ||| r.flags) 0 })))

end Sys2Proof.Machine
end

