-- ==== Sys2Proof/Machine/Sketches.lean ====
section
/-! DEFINITION. Count sketches (R284–R304). -/

namespace Sys2Proof.Machine

/-! ## Hashing (R287, R288) -/

/-- The mixing function. -/
def mix (x : Reg) : Reg :=
  let x := x ^^^ (x >>> 31)
  let x := x * 0xD6E8FEB86659FD93
  let x := x ^^^ (x >>> 29)
  let x := x * 0x8F3A41C52B7ED069
  x ^^^ (x >>> 32)

/-- The seed A of a row. -/
def seedA (skid j : Nat) : Reg := mix (BitVec.ofNat 64 (skid * 256 + 2 * j)) ||| 1

/-- The seed B of a row. -/
def seedB (skid j : Nat) : Reg := mix (BitVec.ofNat 64 (skid * 256 + 2 * j + 1))

/-- The bucket of an index in a row. -/
def bucketOf (skid k j : Nat) (i : Reg) : Nat := (seedA skid j * i + seedB skid j).toNat >>> (64 - k)

/-- The sign of an index in a row. -/
def signOf (skid j : Nat) (i : Reg) : Int := if (mix (i + seedB skid j)).getLsbD 63 then -1 else 1

/-- A sketch as a handle describes it. -/
structure Sketch where
  skid : Nat
  k : Nat
  d : Nat
  e : Int
  base : Nat

/-- The sketch of a handle (R284). -/
def sketchOf (h : BitVec 256) : Sketch := { skid := hSkid h, k := hK h, d := hD h, e := hScale h, base := hBase h }

/-- The counters of an index: (counter number, sign), rows in order. -/
def Sketch.places (k : Sketch) (i : Reg) : List (Nat × Int) :=
  (List.range k.d).map (fun j => (j * 2 ^ k.k + bucketOf k.skid k.k j i, signOf k.skid j i))

/-! ## Counting and querying (R289, R290) -/

/-- A value as a count, with its flags. -/
def countOf (e : Int) (v : Nat) : Int × BitVec 5 :=
  toIntV .rne (intRange .c32) (match valOf fF32 v with
    | .fin n m x => .fin n m (x - e)
    | x => x)

/-- An exact counter clamped once: its value, and 1 where it was clamped. -/
def clampCtr (i : Int) : Int × Nat :=
  let r := clampInt (intRange .c32) i
  (r.1, if r.2 = 0 then 0 else 1)

/-- An integer in its place. -/
def insertInt (x : Int) : List Int → List Int
  | [] => [x]
  | y :: r => if x ≤ y then x :: y :: r else y :: insertInt x r

/-- The median of the signed estimates as FP32 (R290). -/
def medianOf (e : Int) (xs : List Int) : Res :=
  let m := (xs.foldr insertInt [])[(xs.length - 1) / 2]?.getD 0
  rne fF32 (.fin (m < 0) m.natAbs e)

/-- The counters as a command sees and changes them: number and value, the latest first, over HBM. -/
abbrev Ctrs := List (Nat × Int)

/-- A counter. -/
def ctrGet (under : Nat → Int) (cs : Ctrs) (n : Nat) : Int := ((cs.find? (fun c => c.1 == n)).map (·.2)).getD (under n)

/-- A counter set. -/
def ctrPut : Ctrs → Nat → Int → Ctrs
  | [], n, v => [(n, v)]
  | (m, x) :: r, n, v => if m = n then (n, v) :: r else (m, x) :: ctrPut r n v

/-- What a command has done so far: its counters, outputs, flags, clamps, zero denominators, the elements of NaNs. -/
structure SkRun where
  ctrs : Ctrs
  out : List Nat
  flags : BitVec 5
  clamps : Nat
  zden : Nat
  nans : List (Nat × Nat × Nat)

/-- A clamped counter is stored. -/
def SkRun.store (r : SkRun) (n : Nat) (v : Int) : SkRun :=
  let c := clampCtr v
  { r with ctrs := ctrPut r.ctrs n c.1, clamps := r.clamps + c.2,
           flags := if c.2 = 0 then r.flags else r.flags ||| flSaturate }

/-- skupd of one element (R297). -/
def SkRun.update (r : SkRun) (k : Sketch) (under : Nat → Int) (i : Reg) (v : Nat) : SkRun :=
  let c := countOf k.e v
  let r := { r with flags := r.flags ||| c.2, clamps := r.clamps + (if c.2 &&& flSaturate = 0 then 0 else 1) }
  (k.places i).foldl (fun r p => r.store p.1 (ctrGet under r.ctrs p.1 + p.2 * c.1)) r

/-- The query of an index (R290). -/
def queryOf (k : Sketch) (get : Nat → Int) (i : Reg) : Res := medianOf k.e ((k.places i).map (fun p => p.2 * get p.1))

/-- skopt of one element (R301). -/
def SkRun.optimise (r : SkRun) (el : Nat) (lr bc1 bc2 eps : Nat) (mq vq : Res) : SkRun :=
  let f (x : Nat) : Val := valOf fF32 x
  let mh := rne fF32 (divV (f mq.bits) (f bc1))
  let vh := rne fF32 (divV (f vq.bits) (f bc2))
  let vb := if vh.bits / 2 ^ 31 = 1 then 0 else vh.bits
  let root := rne fF32 (sqrtV (f vb))
  let den := rne fF32 (addV .rne (f root.bits) (f eps))
  let fl := mq.flags ||| vq.flags ||| mh.flags ||| vh.flags ||| root.flags ||| den.flags
  if den.bits = 0 then { r with out := 0 :: r.out, flags := r.flags ||| fl, zden := r.zden + 1 }
  else
    let q := rne fF32 (divV (f mh.bits) (f den.bits))
    let step := rne fF32 (mulV (negV (f lr)) (f q.bits))
    { r with out := step.bits :: r.out, flags := r.flags ||| fl ||| q.flags ||| step.flags,
             nans := if step.nan then r.nans ++ [(0, 0, el)] else r.nans }

/-! ## Fields of the descriptor (R291) -/

/-- I0. -/
def kI0 (c : NmuCmd) : Nat := field c.desc 448 64
/-- N. -/
def kN (c : NmuCmd) : Nat := field c.desc 416 32
/-- VAL. -/
def kVal (c : NmuCmd) : Nat := field c.desc 384 32
/-- IDX. -/
def kIdx (c : NmuCmd) : Nat := field c.desc 352 32
/-- OUT. -/
def kOut (c : NmuCmd) : Nat := field c.desc 320 32
/-- LR. -/
def kLr (c : NmuCmd) : Nat := field c.desc 288 32
/-- BC1. -/
def kBc1 (c : NmuCmd) : Nat := field c.desc 256 32
/-- BC2. -/
def kBc2 (c : NmuCmd) : Nat := field c.desc 224 32
/-- EPS. -/
def kEps (c : NmuCmd) : Nat := field c.desc 192 32
/-- C. -/
def kC (c : NmuCmd) : Nat := field c.desc 160 32

/-- Element commands (R291). -/
def isElem : NmuOp → Bool
  | .skupd | .skqry | .skopt => true
  | _ => false

/-- Values are read from VAL (R292). -/
def readsVal : NmuOp → Bool
  | .skupd | .skaddP | .skcpyIn => true
  | _ => false

/-- Values are written to VAL (R292). -/
def writesVal : NmuOp → Bool
  | .skqry | .skopt | .skcpyOut => true
  | _ => false

/-- A second sketch is named (R292). -/
def namesTwo : NmuOp → Bool
  | .skadd | .skopt | .skcpyS => true
  | _ => false

/-- The command has an index list. -/
def hasList (c : NmuCmd) : Bool := isElem c.op && kIdx c != noAddr

/-- Beats of the values. -/
def valBeats (c : NmuCmd) : Nat := ceilDiv (4 * kN c) 1024
/-- L (R292). -/
def listBeats (c : NmuCmd) : Nat := if hasList c then ceilDiv (8 * kN c) 1024 else 0

/-- DETAIL of a sketch fault (R307). -/
def sketchDetail (c : NmuCmd) (n bit : Nat) : BitVec 256 :=
  BitVec.ofNat 256 (hSkid c.ha + n * 2 ^ 32 + c.work * 2 ^ 64 + bit % 256 * 2 ^ 96)

/-- The bit offset of the first parameter that R300 or R301 refuses. -/
def badParam (c : NmuCmd) : Option Nat :=
  let fin (x : Nat) : Bool := match valOf fF32 x with | .fin _ _ _ => true | _ => false
  let pos (x : Nat) : Bool := match valOf fF32 x with | .fin n m _ => !n && m != 0 | _ => false
  let nonneg (x : Nat) : Bool := match valOf fF32 x with | .fin n m _ => !n || m == 0 | _ => false
  match c.op with
  | .skscl => if fin (kC c) then none else some 160
  | .skopt =>
    if !fin (kLr c) then some 288 else if !pos (kBc1 c) then some 256 else if !pos (kBc2 c) then some 224
    else if !nonneg (kEps c) then some 192 else none
  | _ => none

/-- The checks at t + 6 (R294). -/
def sketchDescChks (c : NmuCmd) : List Check :=
  let k := sketchOf c.ha
  let n := kN c
  let range (a len : Nat) : List Check := [alignChk .sp a 64, boundChk .sp spSize a len]
  let wantIn := (if readsVal c.op then valBeats c else 0) + listBeats c
  let wantOut := if writesVal c.op then valBeats c else 0
  (if readsVal c.op || writesVal c.op then range (kVal c) (4 * n) else []) ++
    (if hasList c then range (kIdx c) (8 * n) else []) ++ (if kOut c = noAddr then [] else range (kOut c) 64) ++
    [chk (n == 0 || decide ((if isElem c.op then 4096 else 2 ^ 24) < n)) 0x23 (sketchDetail c n 0),
     chk (!isElem c.op && decide (k.d * 2 ^ k.k < kI0 c + n)) 0x23 (sketchDetail c n 0),
     chk ((c.op == .skaddP || c.op == .skcpyOut || c.op == .skcpyIn) && decide (2 ^ 19 < n)) 0x23 (sketchDetail c n 0),
     chk (c.bi != wantIn || c.bo != wantOut) 0x23 (sketchDetail c n 0),
     (badParam c).map (fun b => (0x24, sketchDetail c n b))]

/-- Input beat j: the values first, then the index list (R293). -/
def inputBeat (c : NmuCmd) (j : Nat) : Nat × Nat :=
  let nv := if readsVal c.op then valBeats c else 0
  if j < nv then (kVal c + 1024 * j, min 1024 (4 * kN c - 1024 * j))
  else (kIdx c + 1024 * (j - nv), min 1024 (8 * kN c - 1024 * (j - nv)))

/-- The values of a command, and its indices (R291). -/
def inputsOf (c : NmuCmd) : List Nat × List Reg :=
  let n := kN c
  let nv := if readsVal c.op then 4 * n else 0
  let vals := if readsVal c.op then (valuesOf 4 n c.input).toList else []
  let idx := if hasList c then (valuesOf 8 n (c.input.drop nv)).toList.map (BitVec.ofNat 64)
    else if isElem c.op then (List.range n).map (fun el => BitVec.ofNat 64 (kI0 c + el)) else []
  (vals, idx)

/-! ## Issue (R292–R294) -/

/-- A handle names a bound sketch (R149, R286). -/
def State.sketchHandle (s : State) (h : Nat) : Check :=
  chk (!s.me.isBound h || !hIsSketch (s.me.rh h)) 0x14 (handleDetail (s.me.rh h))

/-- Two sketches agree in SKID, D, K and E. -/
def sameShape (a b : Sketch) : Bool := a.skid == b.skid && a.d == b.d && a.k == b.k && a.e == b.e

/-- A sketch command word (R292, R294). -/
def sketchCommand (op : NmuOp) (h k a : BitVec 5) (s : State) : Out :=
  let x := s.me.cmdGroup a
  let w := field x.2 32 32
  let bi := field x.2 16 16
  let bo := field x.2 0 16
  let two := namesTwo op
  let c := s.command op h.toNat k.toNat w 0 bi bo x.1
  let bad := (op == .skadd || op == .skcpyS) && !sameShape (sketchOf c.ha) (sketchOf c.hb)
  s.issueCommand c (if two then [h.toNat, k.toNat] else [h.toNat]) (1 + bo)
    [s.sketchHandle h.toNat, if two then s.sketchHandle k.toNat else none,
     chk (decide (2 ^ 20 < w) || s.pastLeg w (1 + bo) || bad) 0x23 (sketchDetail c 0 0)]

/-- skinit h, [aa]. -/
def execSkinit (_g : BitVec 4) (h a : BitVec 5) (s : State) : Out := sketchCommand .skinit h 0 a s
/-- skupd h, [aa]. -/
def execSkupd (_g : BitVec 4) (h a : BitVec 5) (s : State) : Out := sketchCommand .skupd h 0 a s
/-- skqry h, [aa]. -/
def execSkqry (_g : BitVec 4) (h a : BitVec 5) (s : State) : Out := sketchCommand .skqry h 0 a s
/-- skadd hd, hs, [aa]. -/
def execSkadd (_g : BitVec 4) (h k a : BitVec 5) (s : State) : Out := sketchCommand .skadd h k a s
/-- skadd.p h, [aa]. -/
def execSkaddP (_g : BitVec 4) (h a : BitVec 5) (s : State) : Out := sketchCommand .skaddP h 0 a s
/-- skscl h, [aa]. -/
def execSkscl (_g : BitVec 4) (h a : BitVec 5) (s : State) : Out := sketchCommand .skscl h 0 a s
/-- skopt hm, hv, [aa]. -/
def execSkopt (_g : BitVec 4) (h k a : BitVec 5) (s : State) : Out := sketchCommand .skopt h k a s
/-- skcpy.out h, [aa]. -/
def execSkcpyOut (_g : BitVec 4) (h a : BitVec 5) (s : State) : Out := sketchCommand .skcpyOut h 0 a s
/-- skcpy.in h, [aa]. -/
def execSkcpyIn (_g : BitVec 4) (h a : BitVec 5) (s : State) : Out := sketchCommand .skcpyIn h 0 a s
/-- skcpy.s hd, hs, [aa]. -/
def execSkcpyS (_g : BitVec 4) (h k a : BitVec 5) (s : State) : Out := sketchCommand .skcpyS h k a s

/-! ## Reads before π -/

/-- A command reads a second object at π − 1: another tensor's patch, or another sketch's counters (R253, R293). -/
def readsTwo (c : NmuCmd) : Bool := readsSecond c || (namesTwo c.op && hBase c.ha != hBase c.hb)

/-- The numbers of the counters of a second sketch that a command reads. -/
def secondCtrs (c : NmuCmd) : List Nat :=
  if c.op = .skopt then (inputsOf c).2.flatMap (fun i => ((sketchOf c.hb).places i).map (·.1))
  else (List.range (kN c)).map (kI0 c + ·)

/-- A counter as HBM holds it. -/
def State.ctrAt (s : State) (d ctx : Nat) (k : Sketch) (n : Nat) : Int :=
  intOf .c32 (leNat (s.readHbm d ctx (k.base + 4 * n) 4))

/-- The counters of a second sketch, read at π − 1. -/
def State.readCounters (s : State) (c : NmuCmd) : NmuCmd :=
  let d := c.word.id.dev
  let ctx := s.ctxW c.word
  let k := sketchOf c.hb
  let ns := secondCtrs c
  { c with second := ns.flatMap (fun n => s.readHbm d ctx (k.base + 4 * n) 4),
           poison := c.poison <|> (s.nmuPoison c (ns.map (fun n => (k.base + 4 * n, 4)))).map (·.2) }

/-- The step in which a command performs. -/
def performStep (c : NmuCmd) : Instr :=
  match c.op with
  | .skinit | .skupd | .skqry | .skadd | .skaddP | .skscl | .skopt | .skcpyOut | .skcpyIn | .skcpyS => .sketchPerform c
  | _ => .patchPerform c

/-- The descriptor of a command is read at t + 6 (R246, R247, R293, R294). Of a poisoned descriptor nothing is checked (R78,
R310). -/
def performDescRead (c : NmuCmd) (s : State) : State :=
  let bytes := readBytes (s.coreAt c.word.id).sp c.descAt 64
  let c := { c with desc := BitVec.ofNat 512 (leNat bytes) }
  let poison := s.poisonChk c.word.id 0 .sp c.descAt 64
  let own := if poison.isSome then [] else if isSketchOp c.op then sketchDescChks c else patchDescChks c
  s.cmdStage c (poison :: s.watchChk c.word .sp c.descAt 64 false :: own) (fun s => s.afterDesc c (readsTwo c) performStep)

/-- Input beat j of a command is read. It is an operand of an NMU: a poisoned line of it is consumed at π (R310). -/
def performInputRead (c : NmuCmd) (j : Nat) (s : State) : State :=
  let b := if isSketchOp c.op then inputBeat c j else payloadBeat c j
  s.cmdStage c [s.watchChk c.word .sp b.1 b.2 false] (fun s =>
    s.afterInput { c with input := c.input ++ readBytes (s.coreAt c.word.id).sp b.1 b.2,
                          poison := c.poison <|> (s.poisonChk c.word.id 0 .sp b.1 b.2).map (·.2) } j (readsTwo c)
      performStep)

/-- The second object of a command is read as it stands at π − 1, and the command performs (R253, R293). -/
def performSecondRead (c : NmuCmd) (s : State) : State :=
  let c := if isSketchOp c.op then s.readCounters c else s.readPatch c
  s.schedPerform c s.now false performStep

/-! ## π (R293–R302) -/

/-- The required work (R293). -/
def sketchWork (c : NmuCmd) : Nat :=
  let d := hD c.ha + (if c.op = .skopt then hD c.hb else 0)
  if isElem c.op then ceilDiv (kN c * d) 16 else ceilDiv (kN c) 16

/-- The counters that a command reads of ha. -/
def readCtrs (c : NmuCmd) : List Nat :=
  match c.op with
  | .skinit | .skcpyIn | .skcpyS => []
  | op => if isElem op then (inputsOf c).2.flatMap (fun i => ((sketchOf c.ha).places i).map (·.1))
    else (List.range (kN c)).map (kI0 c + ·)

/-- A command as a run over its elements or counters (R296–R302). `under` is HBM at π, `second` the other sketch. -/
def sketchRun (c : NmuCmd) (under : Nat → Int) (second : Option (Nat → Int)) : SkRun :=
  let k := sketchOf c.ha
  let k2 := sketchOf c.hb
  let io := inputsOf c
  let start : SkRun := { ctrs := [], out := [], flags := 0, clamps := 0, zden := 0, nans := [] }
  let other (r : SkRun) : Nat → Int := second.getD (ctrGet under r.ctrs)
  let get (r : SkRun) : Nat → Int := ctrGet under r.ctrs
  let val (el : Nat) : Nat := io.1[el]?.getD 0
  let idx (el : Nat) : Reg := io.2[el]?.getD 0
  let step (r : SkRun) (el : Nat) : SkRun :=
    let n := kI0 c + el
    match c.op with
    | .skinit => { r with ctrs := (n, 0) :: r.ctrs }
    | .skupd => r.update k under (idx el) (val el)
    | .skqry =>
      let q := queryOf k (get r) (idx el)
      { r with out := q.bits :: r.out, flags := r.flags ||| q.flags }
    | .skadd => r.store n (get r n + other r n)
    | .skaddP => r.store n (get r n + intOf .c32 (val el))
    | .skscl =>
      let x := toIntV .rne (intRange .c32) (mulV (valOfInt (get r n)) (valOf fF32 (kC c)))
      { r with ctrs := (n, x.1) :: r.ctrs, flags := r.flags ||| x.2,
               clamps := r.clamps + (if x.2 &&& flSaturate = 0 then 0 else 1) }
    | .skopt => r.optimise el (kLr c) (kBc1 c) (kBc2 c) (kEps c) (queryOf k (get r) (idx el))
        (queryOf k2 (other r) (idx el))
    | .skcpyOut => { r with out := intBits 32 (get r n) :: r.out }
    | .skcpyIn => { r with ctrs := (n, intOf .c32 (val el)) :: r.ctrs }
    | .skcpyS => { r with ctrs := (n, other r n) :: r.ctrs }
    | _ => r
  (List.range (kN c)).foldl step start

/-- The other sketch as read at π − 1; none where it is read at π with ha (R293). -/
def secondOf (c : NmuCmd) : Option (Nat → Int) :=
  if namesTwo c.op && hBase c.ha != hBase c.hb then
    let vals := (secondCtrs c).zip ((valuesOf 4 (c.second.length / 4) c.second).toList)
    some (fun n => intOf .c32 (((vals.find? (fun x => x.1 == n)).map (·.2)).getD 0))
  else none

/-- Changed counters as runs of bytes, in ascending order. -/
def ctrRuns (k : Sketch) (cs : Ctrs) : List (Nat × List Byte) :=
  runsOf 4 k.base ((cs.map (fun c => (c.1, intBits 32 c.2))).foldr insertSpan [])

/-- The record of a command (R295). -/
def sketchRecord (n clamps zden perf : Nat) : BitVec 512 :=
  BitVec.ofNat 512 (n * 2 ^ 480 + clamps % 2 ^ 32 * 2 ^ 448 + zden % 2 ^ 32 * 2 ^ 416 + perf % 2 ^ 64 * 2 ^ 352)

/-- A sketch command performs at ha's home NMU at π (R293–R302). -/
def execSketchPerform (c : NmuCmd) (s : State) : Out :=
  let d := c.word.id.dev
  let ctx := s.ctxW c.word
  let k := sketchOf c.ha
  let work := chk (decide (c.work < sketchWork c)) 0x23 (sketchDetail c (kN c) 0)
  .next (match work with
    | some x => s.nmuPerform c [some x] (fun s => s)
    | none =>
      let r := sketchRun c (s.ctrAt d ctx k) (secondOf c)
      let same := if namesTwo c.op && hBase c.ha == hBase c.hb then
          secondCtrs c else []
      let reads := (readCtrs c ++ same).map (fun n => (k.base + 4 * n, 4))
      let runs := ctrRuns k r.ctrs
      let poison := operandPoison c <|> s.nmuPoison c reads
      let nan := if poison.isSome then none else (firstNan r.nans).map (fun x => (0x20, nanDetail x))
      let other := if namesTwo c.op then (secondCtrs c).map (fun n => (hBase c.hb + 4 * n, 4, false)) else []
      s.nmuPerform c [poison, nan, s.nmuWatch c (reads.map (fun x => (x.1, x.2, false)) ++ other ++
          runs.map (fun x => (x.1, x.2.length, true)))]
        (fun s =>
          let s := runs.foldl (fun s x => s.writeHbm d ctx x.1 x.2) s
          let s := s.nmuFlags c r.flags
          let s := if kOut c = noAddr then s
            else s.writeBeats c (s.now + 300) [(kOut c, recordBytes (sketchRecord (kN c) r.clamps r.zden s.now))]
          s.writeBeats c (s.now + 301) (beatsOf (kVal c) (r.out.reverse.flatMap (leBytes 4)))))

end Sys2Proof.Machine
end

