-- ==== Sys2Proof/Machine/Performs.lean ====
section
/-! DEFINITION. The perform of results at ρ − 1 (R77, R88, R107, R134, R185, R210), of faults found then (R142, R200), and
of timed accesses at their ticks (R224, R225). -/

namespace Sys2Proof.Machine

/-- A token written (R70). -/
def Core.setToken (c : Core) (k : Nat) (st ph : Bool) : Core :=
  { c with tkState := setBits c.tkState k 1 st.toNat, tkPhase := setBits c.tkPhase k 1 ph.toNat }

/-- A bellwether mismatch at its ρ: the VX bucket is charged, and 0x43 raised (R200, R317). -/
def State.bellwether (s : State) (w : WordRef) (c cst : BitVec 32) : State :=
  (s.charge w.id .vxLanes 0 (s.wb w.id.dev)).raise w.eng w true 0x43 (BitVec.ofNat 256 (c.toNat + cst.toNat * 2 ^ 32))

/-- What a result does to a core that still runs the itinerary of its word. -/
def State.result (s : State) (w : WordRef) : Result → State
  | .sReg k v => s.modCore w.id (fun c => c.wsSlot k v)
  | .pReg i v => s.modCore w.id (fun c => c.wp i v)
  | .hReg h q v => s.modCore w.id (fun c => c.whQuarter h q v)
  | .token k st ph => s.modCore w.id (fun c => c.setToken k st ph)
  | .csr idx v => s.sharedWrite w.id idx v
  | .vx x => performVx w x s
  | .product p => performProduct w p s
  | .wbuf j => performWbuf w j s
  | .accClear acc => performAccClear w acc s
  | .nmuFlags f => s.modCore w.id (fun c => c.orNmu f)
  | .ended => s.ends w
  | .yieldPoint => s.yieldsAt w
  | .fault cause detail => s.raise w.eng w true cause detail
  | .mismatch c cst => s.bellwether w c cst

/-- A result performs at its tick (R77). -/
def execLeasedResult (w : WordRef) (r : Result) (s : State) : Out := .next (if s.mine w then s.result w r else s)

/-- A timed access or beat performs at its tick (R225). -/
def execAccessPerform (a : Access) (s : State) : Out :=
  .next (match a with
    | .load w space addr size dst => performLoad w space addr size dst s
    | .store w space addr bytes poison => performStore w space addr bytes poison s
    | .copyRead w c j => performCopyRead w c j s
    | .copyWrite w space addr bytes poison => performWrite w space addr bytes poison s
    | .feedRead w f j b got => performFeedRead w f j b got s
    | .drainPop w d j => performDrainPop w d j s
    | .sendRead w j f => performSendRead w j f s
    | .collRead w j f => performCollRead w j f s
    | .descRead c => performDescRead c s
    | .inputRead c j => performInputRead c j s
    | .secondRead c => performSecondRead c s
    | .mwldBeat w j b => performMwldBeat w j b s
    | .dispRead w no j => performDispRead w no j s
    | .dispWrite w no j => performDispWrite w no j s)

end Sys2Proof.Machine
end

