-- ==== Sys2Proof/Machine/Scalar.lean ====
section
/-! DEFINITION. Scalar arithmetic, compares and predicates of SQ (R88–R92). -/

namespace Sys2Proof.Machine

/-! ## The arithmetic of R89 -/

/-- Bits 127:64 of the signed product. -/
def mulHigh (x y : Reg) : Reg := BitVec.ofInt 64 (x.toInt * y.toInt / 2 ^ 64)

/-- Bits 127:64 of the unsigned product. -/
def mulHighU (x y : Reg) : Reg := BitVec.ofNat 64 (x.toNat * y.toNat / 2 ^ 64)

/-- The quotient of div: truncated toward zero; all ones for a zero divisor. −2^63 ÷ −1 wraps to −2^63. -/
def divSigned (x y : Reg) : Reg := if y = 0 then BitVec.allOnes 64 else BitVec.ofInt 64 (x.toInt.tdiv y.toInt)

/-- The quotient of divu. -/
def divUnsigned (x y : Reg) : Reg := if y = 0 then BitVec.allOnes 64 else BitVec.ofNat 64 (x.toNat / y.toNat)

/-- The remainder of rem: the sign of the dividend; the dividend for a zero divisor. -/
def remSigned (x y : Reg) : Reg := if y = 0 then x else BitVec.ofInt 64 (x.toInt.tmod y.toInt)

/-- The remainder of remu. -/
def remUnsigned (x y : Reg) : Reg := if y = 0 then x else BitVec.ofNat 64 (x.toNat % y.toNat)

/-! ## The shapes of the words -/

/-- A register form with λ = 1: s[d] is written from s[a] and s[b] (R88, R89). -/
def sqAlu (f : Reg → Reg → Reg) (d a b : BitVec 6) (s : State) : Out :=
  s.word [s.sFree a.toNat, s.sFree b.toNat, s.sFree d.toNat]
    (fun s => s.modMe (fun c => c.ws d.toNat (f (c.rs a.toNat) (c.rs b.toNat))))

/-- A register form with λ > 1: the destination is leased, and its write performs at ρ − 1 (R77, R88). -/
def sqLong (lam : Nat) (f : Reg → Reg → Reg) (d a b : BitVec 6) (s : State) : Out :=
  s.word [s.sFree a.toNat, s.sFree b.toNat, s.sFree d.toNat]
    (fun s => ((s.leaseS d.toNat lam).sched (s.now + lam - 1) phResult
      (.leasedResult s.cur.word (.sReg (sSlot s.me d.toNat) (f (s.me.rs a.toNat) (s.me.rs b.toNat))))).completesAt
        (lam - 1))

/-- An immediate form: s[d] is written from s[a] (R90). -/
def sqImm (f : Reg → Reg) (d a : BitVec 6) (s : State) : Out :=
  s.word [s.sFree a.toNat, s.sFree d.toNat] (fun s => s.modMe (fun c => c.ws d.toNat (f (c.rs a.toNat))))

/-- cmp: p[d] is written with the condition of s[a] and s[b] (R91). -/
def sqCmp (k : Cond) (d : BitVec 4) (a b : BitVec 6) (s : State) : Out :=
  s.word [s.sFree a.toNat, s.sFree b.toNat, s.pFree d.toNat]
    (fun s => s.modMe (fun c => c.wp d.toNat (condHolds k (c.rs a.toNat) (c.rs b.toNat))))

/-- cmpi: p[d] is written with the condition of s[a] and the sign-extended immediate (R91). -/
def sqCmpi (k : Cond) (d : BitVec 4) (a : BitVec 6) (m : BitVec 8) (s : State) : Out :=
  s.word [s.sFree a.toNat, s.pFree d.toNat]
    (fun s => s.modMe (fun c => c.wp d.toNat (condHolds k (c.rs a.toNat) (sext m))))

/-- plog: p[d] is written from p[a] and p[b] (R92). -/
def sqPred (f : Bool → Bool → Bool) (d a b : BitVec 4) (s : State) : Out :=
  s.word [s.pFree a.toNat, s.pFree b.toNat, s.pFree d.toNat]
    (fun s => s.modMe (fun c => c.wp d.toNat (f (c.rp a.toNat) (c.rp b.toNat))))

/-! ## The words -/

/-- add sd, sa, sb (R89). -/
def execAdd (_g : BitVec 4) (d a b : BitVec 6) (s : State) : Out :=
  sqAlu (fun x y => x + y) d a b s

/-- sub sd, sa, sb (R89). -/
def execSub (_g : BitVec 4) (d a b : BitVec 6) (s : State) : Out :=
  sqAlu (fun x y => x - y) d a b s

/-- and sd, sa, sb (R89). -/
def execAndR (_g : BitVec 4) (d a b : BitVec 6) (s : State) : Out :=
  sqAlu (fun x y => x &&& y) d a b s

/-- or sd, sa, sb (R89). -/
def execOrR (_g : BitVec 4) (d a b : BitVec 6) (s : State) : Out :=
  sqAlu (fun x y => x ||| y) d a b s

/-- xor sd, sa, sb (R89). -/
def execXorR (_g : BitVec 4) (d a b : BitVec 6) (s : State) : Out :=
  sqAlu (fun x y => x ^^^ y) d a b s

/-- shl sd, sa, sb (R89). -/
def execShl (_g : BitVec 4) (d a b : BitVec 6) (s : State) : Out :=
  sqAlu (fun x y => x <<< (y.toNat % 64)) d a b s

/-- shr sd, sa, sb (R89). -/
def execShr (_g : BitVec 4) (d a b : BitVec 6) (s : State) : Out :=
  sqAlu (fun x y => x >>> (y.toNat % 64)) d a b s

/-- sra sd, sa, sb (R89). -/
def execSra (_g : BitVec 4) (d a b : BitVec 6) (s : State) : Out :=
  sqAlu (fun x y => x.sshiftRight (y.toNat % 64)) d a b s

/-- mul sd, sa, sb (R89). -/
def execMul (_g : BitVec 4) (d a b : BitVec 6) (s : State) : Out :=
  sqLong 4 (fun x y => x * y) d a b s

/-- mulh sd, sa, sb (R89). -/
def execMulh (_g : BitVec 4) (d a b : BitVec 6) (s : State) : Out :=
  sqLong 4 mulHigh d a b s

/-- mulhu sd, sa, sb (R89). -/
def execMulhu (_g : BitVec 4) (d a b : BitVec 6) (s : State) : Out :=
  sqLong 4 mulHighU d a b s

/-- div sd, sa, sb (R89). -/
def execDivS (_g : BitVec 4) (d a b : BitVec 6) (s : State) : Out :=
  sqLong 24 divSigned d a b s

/-- divu sd, sa, sb (R89). -/
def execDivu (_g : BitVec 4) (d a b : BitVec 6) (s : State) : Out :=
  sqLong 24 divUnsigned d a b s

/-- rem sd, sa, sb (R89). -/
def execRem (_g : BitVec 4) (d a b : BitVec 6) (s : State) : Out :=
  sqLong 24 remSigned d a b s

/-- remu sd, sa, sb (R89). -/
def execRemu (_g : BitVec 4) (d a b : BitVec 6) (s : State) : Out :=
  sqLong 24 remUnsigned d a b s

/-- addi sd, sa, imm (R90). -/
def execAddi (_g : BitVec 4) (d a : BitVec 6) (m : BitVec 9) (s : State) : Out :=
  sqImm (fun x => x + sext m) d a s

/-- andi sd, sa, imm (R90). -/
def execAndi (_g : BitVec 4) (d a : BitVec 6) (m : BitVec 9) (s : State) : Out :=
  sqImm (fun x => x &&& sext m) d a s

/-- ori sd, sa, imm (R90). -/
def execOri (_g : BitVec 4) (d a : BitVec 6) (m : BitVec 9) (s : State) : Out :=
  sqImm (fun x => x ||| sext m) d a s

/-- shli sd, sa, imm (R90). -/
def execShli (_g : BitVec 4) (d a : BitVec 6) (m : BitVec 9) (s : State) : Out :=
  sqImm (fun x => x <<< m.toNat) d a s

/-- shri sd, sa, imm (R90). -/
def execShri (_g : BitVec 4) (d a : BitVec 6) (m : BitVec 9) (s : State) : Out :=
  sqImm (fun x => x >>> m.toNat) d a s

/-- srai sd, sa, imm (R90). -/
def execSrai (_g : BitVec 4) (d a : BitVec 6) (m : BitVec 9) (s : State) : Out :=
  sqImm (fun x => x.sshiftRight m.toNat) d a s

/-- xori sd, sa, imm (R90). -/
def execXori (_g : BitVec 4) (d a : BitVec 6) (m : BitVec 9) (s : State) : Out :=
  sqImm (fun x => x ^^^ sext m) d a s

/-- addi.l sd, sa, imm (R90). -/
def execAddiL (_g : BitVec 4) (d a : BitVec 6) (m : BitVec 30) (s : State) : Out :=
  sqImm (fun x => x + sext m) d a s

/-- ori.l sd, sa, imm (R90). -/
def execOriL (_g : BitVec 4) (d a : BitVec 6) (m : BitVec 30) (s : State) : Out :=
  sqImm (fun x => x ||| sext m) d a s

/-- cmp.eq pd, sa, sb (R91). -/
def execCmpEq (_g d : BitVec 4) (a b : BitVec 6) (s : State) : Out :=
  sqCmp .eq d a b s

/-- cmp.ne pd, sa, sb (R91). -/
def execCmpNe (_g d : BitVec 4) (a b : BitVec 6) (s : State) : Out :=
  sqCmp .ne d a b s

/-- cmp.lt pd, sa, sb (R91). -/
def execCmpLt (_g d : BitVec 4) (a b : BitVec 6) (s : State) : Out :=
  sqCmp .lt d a b s

/-- cmp.ge pd, sa, sb (R91). -/
def execCmpGe (_g d : BitVec 4) (a b : BitVec 6) (s : State) : Out :=
  sqCmp .ge d a b s

/-- cmp.ltu pd, sa, sb (R91). -/
def execCmpLtu (_g d : BitVec 4) (a b : BitVec 6) (s : State) : Out :=
  sqCmp .ltu d a b s

/-- cmp.geu pd, sa, sb (R91). -/
def execCmpGeu (_g d : BitVec 4) (a b : BitVec 6) (s : State) : Out :=
  sqCmp .geu d a b s

/-- cmpi.eq pd, sa, imm (R91). -/
def execCmpiEq (_g p : BitVec 4) (a : BitVec 6) (m : BitVec 8) (s : State) : Out :=
  sqCmpi .eq p a m s

/-- cmpi.ne pd, sa, imm (R91). -/
def execCmpiNe (_g p : BitVec 4) (a : BitVec 6) (m : BitVec 8) (s : State) : Out :=
  sqCmpi .ne p a m s

/-- cmpi.lt pd, sa, imm (R91). -/
def execCmpiLt (_g p : BitVec 4) (a : BitVec 6) (m : BitVec 8) (s : State) : Out :=
  sqCmpi .lt p a m s

/-- cmpi.ge pd, sa, imm (R91). -/
def execCmpiGe (_g p : BitVec 4) (a : BitVec 6) (m : BitVec 8) (s : State) : Out :=
  sqCmpi .ge p a m s

/-- cmpi.ltu pd, sa, imm (R91). -/
def execCmpiLtu (_g p : BitVec 4) (a : BitVec 6) (m : BitVec 8) (s : State) : Out :=
  sqCmpi .ltu p a m s

/-- cmpi.geu pd, sa, imm (R91). -/
def execCmpiGeu (_g p : BitVec 4) (a : BitVec 6) (m : BitVec 8) (s : State) : Out :=
  sqCmpi .geu p a m s

/-- pand pd, pa, pb (R92). -/
def execPand (_g d a b : BitVec 4) (s : State) : Out :=
  sqPred (fun x y => x && y) d a b s

/-- por pd, pa, pb (R92). -/
def execPor (_g d a b : BitVec 4) (s : State) : Out :=
  sqPred (fun x y => x || y) d a b s

/-- pxor pd, pa, pb (R92). -/
def execPxor (_g d a b : BitVec 4) (s : State) : Out :=
  sqPred (fun x y => x ^^ y) d a b s

/-- pandn pd, pa, pb (R92). -/
def execPandn (_g d a b : BitVec 4) (s : State) : Out :=
  sqPred (fun x y => x && !y) d a b s

/-- porn pd, pa, pb (R92). -/
def execPorn (_g d a b : BitVec 4) (s : State) : Out :=
  sqPred (fun x y => x || !y) d a b s

/-- pnot pd, pa (R92). -/
def execPnot (_g d a : BitVec 4) (s : State) : Out :=
  s.word [s.pFree a.toNat, s.pFree d.toNat]
    (fun s => s.modMe (fun c => c.wp d.toNat (!c.rp a.toNat)))

end Sys2Proof.Machine
end

