-- ==== Sys2Proof/Machine/Dispatch.lean ====
section
/-! DEFINITION. One arm per constructor of Instr: the meaning of each. -/

namespace Sys2Proof.Machine

def exec (i : Instr) (s : State) : Host.Outcome State Fault Refusal :=
  match i with
  | .idle g w => Sys2Proof.Machine.execIdle g w s
  | .endW g => Sys2Proof.Machine.execEndW g s
  | .tkset g k st ph => Sys2Proof.Machine.execTkset g k st ph s
  | .tkchk g k st ph => Sys2Proof.Machine.execTkchk g k st ph s
  | .mark g n => Sys2Proof.Machine.execMark g n s
  | .fork g m t => Sys2Proof.Machine.execFork g m t s
  | .join g m => Sys2Proof.Machine.execJoin g m s
  | .yieldW g => Sys2Proof.Machine.execYieldW g s
  | .rep g len cnt => Sys2Proof.Machine.execRep g len cnt s
  | .repn g len n => Sys2Proof.Machine.execRepn g len n s
  | .add g d a b => Sys2Proof.Machine.execAdd g d a b s
  | .sub g d a b => Sys2Proof.Machine.execSub g d a b s
  | .andR g d a b => Sys2Proof.Machine.execAndR g d a b s
  | .orR g d a b => Sys2Proof.Machine.execOrR g d a b s
  | .xorR g d a b => Sys2Proof.Machine.execXorR g d a b s
  | .shl g d a b => Sys2Proof.Machine.execShl g d a b s
  | .shr g d a b => Sys2Proof.Machine.execShr g d a b s
  | .sra g d a b => Sys2Proof.Machine.execSra g d a b s
  | .mul g d a b => Sys2Proof.Machine.execMul g d a b s
  | .mulh g d a b => Sys2Proof.Machine.execMulh g d a b s
  | .mulhu g d a b => Sys2Proof.Machine.execMulhu g d a b s
  | .divS g d a b => Sys2Proof.Machine.execDivS g d a b s
  | .divu g d a b => Sys2Proof.Machine.execDivu g d a b s
  | .rem g d a b => Sys2Proof.Machine.execRem g d a b s
  | .remu g d a b => Sys2Proof.Machine.execRemu g d a b s
  | .addi g d a m => Sys2Proof.Machine.execAddi g d a m s
  | .andi g d a m => Sys2Proof.Machine.execAndi g d a m s
  | .ori g d a m => Sys2Proof.Machine.execOri g d a m s
  | .shli g d a m => Sys2Proof.Machine.execShli g d a m s
  | .shri g d a m => Sys2Proof.Machine.execShri g d a m s
  | .srai g d a m => Sys2Proof.Machine.execSrai g d a m s
  | .xori g d a m => Sys2Proof.Machine.execXori g d a m s
  | .addiL g d a m => Sys2Proof.Machine.execAddiL g d a m s
  | .oriL g d a m => Sys2Proof.Machine.execOriL g d a m s
  | .cmpEq g d a b => Sys2Proof.Machine.execCmpEq g d a b s
  | .cmpNe g d a b => Sys2Proof.Machine.execCmpNe g d a b s
  | .cmpLt g d a b => Sys2Proof.Machine.execCmpLt g d a b s
  | .cmpGe g d a b => Sys2Proof.Machine.execCmpGe g d a b s
  | .cmpLtu g d a b => Sys2Proof.Machine.execCmpLtu g d a b s
  | .cmpGeu g d a b => Sys2Proof.Machine.execCmpGeu g d a b s
  | .cmpiEq g p a m => Sys2Proof.Machine.execCmpiEq g p a m s
  | .cmpiNe g p a m => Sys2Proof.Machine.execCmpiNe g p a m s
  | .cmpiLt g p a m => Sys2Proof.Machine.execCmpiLt g p a m s
  | .cmpiGe g p a m => Sys2Proof.Machine.execCmpiGe g p a m s
  | .cmpiLtu g p a m => Sys2Proof.Machine.execCmpiLtu g p a m s
  | .cmpiGeu g p a m => Sys2Proof.Machine.execCmpiGeu g p a m s
  | .pand g d a b => Sys2Proof.Machine.execPand g d a b s
  | .por g d a b => Sys2Proof.Machine.execPor g d a b s
  | .pxor g d a b => Sys2Proof.Machine.execPxor g d a b s
  | .pandn g d a b => Sys2Proof.Machine.execPandn g d a b s
  | .porn g d a b => Sys2Proof.Machine.execPorn g d a b s
  | .pnot g d a => Sys2Proof.Machine.execPnot g d a s
  | .brb g p o => Sys2Proof.Machine.execBrb g p o s
  | .brbN g p o => Sys2Proof.Machine.execBrbN g p o s
  | .loop g c stg o => Sys2Proof.Machine.execLoop g c stg o s
  | .jmp o => Sys2Proof.Machine.execJmp o s
  | .call o => Sys2Proof.Machine.execCall o s
  | .ret => Sys2Proof.Machine.execRet s
  | .trap g c => Sys2Proof.Machine.execTrap g c s
  | .eret g => Sys2Proof.Machine.execEret g s
  | .ldsSp g d a z o => Sys2Proof.Machine.execLdsSp g d a z o s
  | .ldsLoft g d a z o => Sys2Proof.Machine.execLdsLoft g d a z o s
  | .ldsHbm g d a z o => Sys2Proof.Machine.execLdsHbm g d a z o s
  | .ldsPeer g d a z o => Sys2Proof.Machine.execLdsPeer g d a z o s
  | .ldsHost g d a z o => Sys2Proof.Machine.execLdsHost g d a z o s
  | .ldpSp g d a z o => Sys2Proof.Machine.execLdpSp g d a z o s
  | .ldpHbm g d a z o => Sys2Proof.Machine.execLdpHbm g d a z o s
  | .wrsSp g d a z o => Sys2Proof.Machine.execWrsSp g d a z o s
  | .wrsHost g d a z o => Sys2Proof.Machine.execWrsHost g d a z o s
  | .pfh g a o => Sys2Proof.Machine.execPfh g a o s
  | .hbind g h a => Sys2Proof.Machine.execHbind g h a s
  | .hunbind g h => Sys2Proof.Machine.execHunbind g h s
  | .hset g h a b => Sys2Proof.Machine.execHset g h a b s
  | .hget g h d b => Sys2Proof.Machine.execHget g h d b s
  | .evrdRead g d w => Sys2Proof.Machine.execEvrdRead g d w s
  | .evrdRemove g d => Sys2Proof.Machine.execEvrdRemove g d s
  | .evrdCount g d => Sys2Proof.Machine.execEvrdCount g d s
  | .evwait g => Sys2Proof.Machine.execEvwait g s
  | .csrr g d x => Sys2Proof.Machine.execCsrr g d x s
  | .csrw g a x => Sys2Proof.Machine.execCsrw g a x s
  | .ccntCount g d => Sys2Proof.Machine.execCcntCount g d s
  | .ccntLegTick g d => Sys2Proof.Machine.execCcntLegTick g d s
  | .kopen g hd rg o => Sys2Proof.Machine.execKopen g hd rg o s
  | .kclose g rg => Sys2Proof.Machine.execKclose g rg s
  | .pace g => Sys2Proof.Machine.execPace g s
  | .lstat g d x => Sys2Proof.Machine.execLstat g d x s
  | .xfence g ca cb sc => Sys2Proof.Machine.execXfence g ca cb sc s
  | .brk g c => Sys2Proof.Machine.execBrk g c s
  | .trig g a => Sys2Proof.Machine.execTrig g a s
  | .fuserd g d x => Sys2Proof.Machine.execFuserd g d x s
  | .keywipe g => Sys2Proof.Machine.execKeywipe g s
  | .dbgopen g => Sys2Proof.Machine.execDbgopen g s
  | .measure g a x => Sys2Proof.Machine.execMeasure g a x s
  | .spoorMarker g a => Sys2Proof.Machine.execSpoorMarker g a s
  | .spoorClassMask g a => Sys2Proof.Machine.execSpoorClassMask g a s
  | .vadd g f d a b t => Sys2Proof.Machine.execVadd g f d a b t s
  | .vsub g f d a b t => Sys2Proof.Machine.execVsub g f d a b t s
  | .vmul g f d a b t => Sys2Proof.Machine.execVmul g f d a b t s
  | .vfma g f d a b t => Sys2Proof.Machine.execVfma g f d a b t s
  | .vfms g f d a b t => Sys2Proof.Machine.execVfms g f d a b t s
  | .vfnma g f d a b t => Sys2Proof.Machine.execVfnma g f d a b t s
  | .vmax g f d a b t => Sys2Proof.Machine.execVmax g f d a b t s
  | .vmin g f d a b t => Sys2Proof.Machine.execVmin g f d a b t s
  | .vabs g f d a t => Sys2Proof.Machine.execVabs g f d a t s
  | .vneg g f d a t => Sys2Proof.Machine.execVneg g f d a t s
  | .vcmp g f d a b t => Sys2Proof.Machine.execVcmp g f d a b t s
  | .vsel g f d a b t => Sys2Proof.Machine.execVsel g f d a b t s
  | .vmov g f d a t => Sys2Proof.Machine.execVmov g f d a t s
  | .vbcast g f d a t => Sys2Proof.Machine.execVbcast g f d a t s
  | .viadd g f d a b t => Sys2Proof.Machine.execViadd g f d a b t s
  | .visub g f d a b t => Sys2Proof.Machine.execVisub g f d a b t s
  | .vimul g f d a b t => Sys2Proof.Machine.execVimul g f d a b t s
  | .vimac g f d a b t => Sys2Proof.Machine.execVimac g f d a b t s
  | .vand g f d a b t => Sys2Proof.Machine.execVand g f d a b t s
  | .vor g f d a b t => Sys2Proof.Machine.execVor g f d a b t s
  | .vxor g f d a b t => Sys2Proof.Machine.execVxor g f d a b t s
  | .vnot g f d a t => Sys2Proof.Machine.execVnot g f d a t s
  | .vshl g f d a b t => Sys2Proof.Machine.execVshl g f d a b t s
  | .vshr g f d a b t => Sys2Proof.Machine.execVshr g f d a b t s
  | .vsra g f d a b t => Sys2Proof.Machine.execVsra g f d a b t s
  | .vimax g f d a b t => Sys2Proof.Machine.execVimax g f d a b t s
  | .vimin g f d a b t => Sys2Proof.Machine.execVimin g f d a b t s
  | .vicmp g f d a b t => Sys2Proof.Machine.execVicmp g f d a b t s
  | .vcvt g f d a b t => Sys2Proof.Machine.execVcvt g f d a b t s
  | .vcvtef g f d a b t => Sys2Proof.Machine.execVcvtef g f d a b t s
  | .vrsum g f d a t => Sys2Proof.Machine.execVrsum g f d a t s
  | .vcsum g f d a t => Sys2Proof.Machine.execVcsum g f d a t s
  | .vrmax g f d a t => Sys2Proof.Machine.execVrmax g f d a t s
  | .vcmax g f d a t => Sys2Proof.Machine.execVcmax g f d a t s
  | .vexp2 g f d a t => Sys2Proof.Machine.execVexp2 g f d a t s
  | .vlog2 g f d a t => Sys2Proof.Machine.execVlog2 g f d a t s
  | .vrcp g f d a t => Sys2Proof.Machine.execVrcp g f d a t s
  | .vrsqrt g f d a t => Sys2Proof.Machine.execVrsqrt g f d a t s
  | .vexp g f d a t => Sys2Proof.Machine.execVexp g f d a t s
  | .vlog g f d a t => Sys2Proof.Machine.execVlog g f d a t s
  | .vtanh g f d a t => Sys2Proof.Machine.execVtanh g f d a t s
  | .vsigm g f d a t => Sys2Proof.Machine.execVsigm g f d a t s
  | .vperm g f d a b t => Sys2Proof.Machine.execVperm g f d a b t s
  | .vtrans g f d a t => Sys2Proof.Machine.execVtrans g f d a t s
  | .vpack g f d a t => Sys2Proof.Machine.execVpack g f d a t s
  | .vbmm g f d a b t => Sys2Proof.Machine.execVbmm g f d a b t s
  | .vkac g a cst => Sys2Proof.Machine.execVkac g a cst s
  | .vshape g r => Sys2Proof.Machine.execVshape g r s
  | .mwld g b f m o => Sys2Proof.Machine.execMwld g b f m o s
  | .mfwd g c f o m q u r => Sys2Proof.Machine.execMfwd g c f o m q u r s
  | .mbwd g c f o q u r => Sys2Proof.Machine.execMbwd g c f o q u r s
  | .msclAct g q => Sys2Proof.Machine.execMsclAct g q s
  | .msclWt0 g q => Sys2Proof.Machine.execMsclWt0 g q s
  | .msclWt1 g q => Sys2Proof.Machine.execMsclWt1 g q s
  | .msclAll g q => Sys2Proof.Machine.execMsclAll g q s
  | .msparse g b q l => Sys2Proof.Machine.execMsparse g b q l s
  | .mclr g c => Sys2Proof.Machine.execMclr g c s
  | .mdrain g c q z r => Sys2Proof.Machine.execMdrain g c q z r s
  | .mkfwd g f o m q u r => Sys2Proof.Machine.execMkfwd g f o m q u r s
  | .mkbwd g f o q u r => Sys2Proof.Machine.execMkbwd g f o q u r s
  | .mcfg g v r f => Sys2Proof.Machine.execMcfg g v r f s
  | .aadd g d a b => Sys2Proof.Machine.execAadd g d a b s
  | .asub g d a b => Sys2Proof.Machine.execAsub g d a b s
  | .aand g d a b => Sys2Proof.Machine.execAand g d a b s
  | .aor g d a b => Sys2Proof.Machine.execAor g d a b s
  | .axor g d a b => Sys2Proof.Machine.execAxor g d a b s
  | .ashl g d a b => Sys2Proof.Machine.execAshl g d a b s
  | .ashr g d a b => Sys2Proof.Machine.execAshr g d a b s
  | .asra g d a b => Sys2Proof.Machine.execAsra g d a b s
  | .aaddi g d a m => Sys2Proof.Machine.execAaddi g d a m s
  | .aandi g d a m => Sys2Proof.Machine.execAandi g d a m s
  | .ashli g d a m => Sys2Proof.Machine.execAshli g d a m s
  | .ashri g d a m => Sys2Proof.Machine.execAshri g d a m s
  | .aliL g d m => Sys2Proof.Machine.execAliL g d m s
  | .nli g d m => Sys2Proof.Machine.execNli g d m s
  | .naddi g d n m => Sys2Proof.Machine.execNaddi g d n m s
  | .nmov g d a => Sys2Proof.Machine.execNmov g d a s
  | .amov g d n => Sys2Proof.Machine.execAmov g d n s
  | .aswz g d a m => Sys2Proof.Machine.execAswz g d a m s
  | .cpHbmSp g d a n h => Sys2Proof.Machine.execCpHbmSp g d a n h s
  | .cpHbmLoft g d a n h => Sys2Proof.Machine.execCpHbmLoft g d a n h s
  | .cpSpLoft g d a n => Sys2Proof.Machine.execCpSpLoft g d a n s
  | .cpSpSp g d a n => Sys2Proof.Machine.execCpSpSp g d a n s
  | .cpPeerSp g d a n h => Sys2Proof.Machine.execCpPeerSp g d a n h s
  | .cpLoftSp g d a n => Sys2Proof.Machine.execCpLoftSp g d a n s
  | .xldHost g d a n p => Sys2Proof.Machine.execXldHost g d a n p s
  | .xstHost g d a n p => Sys2Proof.Machine.execXstHost g d a n p s
  | .xldPool g d a n p => Sys2Proof.Machine.execXldPool g d a n p s
  | .xstPool g d a n p => Sys2Proof.Machine.execXstPool g d a n p s
  | .qfdSp g q a n t o p => Sys2Proof.Machine.execQfdSp g q a n t o p s
  | .qfdHbm g q a n h o p => Sys2Proof.Machine.execQfdHbm g q a n h o p s
  | .qfdPeer g q a n h o p => Sys2Proof.Machine.execQfdPeer g q a n h o p s
  | .odrSp g q a n o p => Sys2Proof.Machine.execOdrSp g q a n o p s
  | .papplyAdd g h a => Sys2Proof.Machine.execPapplyAdd g h a s
  | .papplySet g h a => Sys2Proof.Machine.execPapplySet g h a s
  | .papplyAddw g h a => Sys2Proof.Machine.execPapplyAddw g h a s
  | .pinv g h a => Sys2Proof.Machine.execPinv g h a s
  | .pdrop g h a => Sys2Proof.Machine.execPdrop g h a s
  | .pcomm g h a => Sys2Proof.Machine.execPcomm g h a s
  | .ptrans g h k a => Sys2Proof.Machine.execPtrans g h k a s
  | .ptransA g h k a => Sys2Proof.Machine.execPtransA g h k a s
  | .psquash g h a => Sys2Proof.Machine.execPsquash g h a s
  | .psquashX g h a => Sys2Proof.Machine.execPsquashX g h a s
  | .pinfo g h a => Sys2Proof.Machine.execPinfo g h a s
  | .plog g h a => Sys2Proof.Machine.execPlog g h a s
  | .plogR g h a => Sys2Proof.Machine.execPlogR g h a s
  | .skinit g h a => Sys2Proof.Machine.execSkinit g h a s
  | .skupd g h a => Sys2Proof.Machine.execSkupd g h a s
  | .skqry g h a => Sys2Proof.Machine.execSkqry g h a s
  | .skadd g h k a => Sys2Proof.Machine.execSkadd g h k a s
  | .skaddP g h a => Sys2Proof.Machine.execSkaddP g h a s
  | .skscl g h a => Sys2Proof.Machine.execSkscl g h a s
  | .skopt g h k a => Sys2Proof.Machine.execSkopt g h k a s
  | .skcpyOut g h a => Sys2Proof.Machine.execSkcpyOut g h a s
  | .skcpyIn g h a => Sys2Proof.Machine.execSkcpyIn g h a s
  | .skcpyS g h k a => Sys2Proof.Machine.execSkcpyS g h k a s
  | .send g h a n k => Sys2Proof.Machine.execSend g h a n k s
  | .recv g h n k => Sys2Proof.Machine.execRecv g h n k s
  | .collSumF32 g h a n => Sys2Proof.Machine.execCollSumF32 g h a n s
  | .collSumC32 g h a n => Sys2Proof.Machine.execCollSumC32 g h a n s
  | .collMaxF32 g h a n => Sys2Proof.Machine.execCollMaxF32 g h a n s
  | .leasedResult word r => Sys2Proof.Machine.execLeasedResult word r s
  | .accessPerform a => Sys2Proof.Machine.execAccessPerform a s
  | .queueEntryReady word result q ready => Sys2Proof.Machine.execQueueEntryReady word result q ready s
  | .patchPerform c => Sys2Proof.Machine.execPatchPerform c s
  | .sketchPerform c => Sys2Proof.Machine.execSketchPerform c s
  | .commandRecordWrite c addr out left => Sys2Proof.Machine.execCommandRecordWrite c addr out left s
  | .flitLanding word dst addr bytes poison tracker => Sys2Proof.Machine.execFlitLanding word dst addr bytes poison tracker s
  | .flitArrival dev link body => Sys2Proof.Machine.execFlitArrival dev link body s
  | .collReduce word j f => Sys2Proof.Machine.execCollReduce word j f s
  | .collResultWrite word dst addr bytes flags => Sys2Proof.Machine.execCollResultWrite word dst addr bytes flags s
  | .peerRequest word p => Sys2Proof.Machine.execPeerRequest word p s
  | .dispatchLanding word number => Sys2Proof.Machine.execDispatchLanding word number s
  | .fenceRelease run id number => Sys2Proof.Machine.execFenceRelease run id number s
  | .launchForward dev ctx rec members => Sys2Proof.Machine.execLaunchForward dev ctx rec members s
  | .departure run => Sys2Proof.Machine.execDeparture run s
  | .legDeparture run leg => Sys2Proof.Machine.execLegDeparture run leg s
  | .legOverrun run leg => Sys2Proof.Machine.execLegOverrun run leg s
  | .haltFlit dev run t scope origin cause => Sys2Proof.Machine.execHaltFlit dev run t scope origin cause s
  | .haltStop dev run t => Sys2Proof.Machine.execHaltStop dev run t s
  | .faultRecordWrite run unwind => Sys2Proof.Machine.execFaultRecordWrite run unwind s
  | .preemptPending c => Sys2Proof.Machine.execPreemptPending c s
  | .contextSaveDone run => Sys2Proof.Machine.execContextSaveDone run s
  | .resume run => Sys2Proof.Machine.execResume run s
  | .groupHold start ticks extra cause => Sys2Proof.Machine.execGroupHold start ticks extra cause s
  | .unwindFlit dev run u source => Sys2Proof.Machine.execUnwindFlit dev run u source s
  | .kraalUnwind dev run u => Sys2Proof.Machine.execKraalUnwind dev run u s
  | .triggerLatch x => Sys2Proof.Machine.execTriggerLatch x s
  | .lastLegDeadline run leg => Sys2Proof.Machine.execLastLegDeadline run leg s
  | .yieldListTick run leg tick => Sys2Proof.Machine.execYieldListTick run leg tick s
  | .launchRecord dev ctx fn rec => Sys2Proof.Machine.execLaunchRecord dev ctx fn rec s
  | .suspPreempt c fn v => Sys2Proof.Machine.execSuspPreempt c fn v s
  | .suspReadmit c fn v => Sys2Proof.Machine.execSuspReadmit c fn v s
  | .dbell dev ctx fn v => Sys2Proof.Machine.execDbell dev ctx fn v s
  | .release dev ctx v => Sys2Proof.Machine.execRelease dev ctx v s
  | .stopc dev ctx v => Sys2Proof.Machine.execStopc dev ctx v s
  | .partset dev v => Sys2Proof.Machine.execPartset dev v s
  | .registerWrite dev target v => Sys2Proof.Machine.execRegisterWrite dev target v s
  | .mapRequest dev r => Sys2Proof.Machine.execMapRequest dev r s
  | .unmapRequest dev ctx va frame => Sys2Proof.Machine.execUnmapRequest dev ctx va frame s
  | .hostMemoryWrite dev addr bytes => Sys2Proof.Machine.execHostMemoryWrite dev addr bytes s
  | .imageLoad dev ctx im => Sys2Proof.Machine.execImageLoad dev ctx im s
  | .linkDown dev link => Sys2Proof.Machine.execLinkDown dev link s
  | .thermalTrip dev => Sys2Proof.Machine.execThermalTrip dev s
  | .correctedError u => Sys2Proof.Machine.execCorrectedError u s
  | .uncorrectableError u => Sys2Proof.Machine.execUncorrectableError u s
  | .bringUp dev steps digest cores => Sys2Proof.Machine.execBringUp dev steps digest cores s
  | .groupForm gs => Sys2Proof.Machine.execGroupForm gs s
  | .fuseCommand dev signed => Sys2Proof.Machine.execFuseCommand dev signed s
  | .rmaCommand dev signed => Sys2Proof.Machine.execRmaCommand dev signed s
  | .attestationRequest dev nonce => Sys2Proof.Machine.execAttestationRequest dev nonce s
  | .linkRetrain dev link => Sys2Proof.Machine.execLinkRetrain dev link s
  | .unlockToken dev devid life nonce signed => Sys2Proof.Machine.execUnlockToken dev devid life nonce signed s
  | .frameMap dev r => Sys2Proof.Machine.execFrameMap dev r s
  | .leadMessage dev link => Sys2Proof.Machine.execLeadMessage dev link s
  | .untimedCompletion run id what ok outside => Sys2Proof.Machine.execUntimedCompletion run id what ok outside s
  | .losslessHoldRequest => Sys2Proof.Machine.execLosslessHoldRequest s
  | .powerCheck => Sys2Proof.Machine.execPowerCheck s
  | .bucketLeak => Sys2Proof.Machine.execBucketLeak s
  | .paceLoss => Sys2Proof.Machine.execPaceLoss s
  | .droverServe => Sys2Proof.Machine.execDroverServe s
  | .queueAging => Sys2Proof.Machine.execQueueAging s
  | .scan => Sys2Proof.Machine.execScan s

end Sys2Proof.Machine
end

