-- ==== Sys2Proof/Machine/Turn.lean ====
section
/-! DEFINITION. One turn of the group: the next effect in flight, the issue of the next head, or the advance of the
count (log 2). -/

namespace Sys2Proof.Machine

/-! ## The issue of a head -/

/-- What stands at a stream's head: a word to execute in a state, or an answer of its own. -/
inductive Head where
  | word (i : Instr) (s : State)
  | done (o : Out)

/-- The form of a word whose λ the head gives, with the fields it reads that the tail does not hold (R41, R186). -/
def headForm : Instr → Option VForm
  | .vadd _ _ _ _ _ _ | .vsub _ _ _ _ _ _ | .vmul _ _ _ _ _ _ | .vmax _ _ _ _ _ _ | .vmin _ _ _ _ _ _ => some { b := true }
  | .vfma _ _ _ _ _ _ | .vfms _ _ _ _ _ _ | .vfnma _ _ _ _ _ _ => some { b := true, c := true }
  | .vsel _ _ _ _ _ _ => some { b := true }
  | .vabs _ _ _ _ _ | .vneg _ _ _ _ _ | .vmov _ _ _ _ _ | .vbcast _ _ _ _ _ | .vcvt _ _ _ _ _ _ | .vcvtef _ _ _ _ _ _ =>
    some {}
  | .viadd _ _ _ _ _ _ | .visub _ _ _ _ _ _ | .vimul _ _ _ _ _ _ | .vand _ _ _ _ _ _ | .vor _ _ _ _ _ _
  | .vxor _ _ _ _ _ _ | .vshl _ _ _ _ _ _ | .vshr _ _ _ _ _ _ | .vsra _ _ _ _ _ _ | .vimax _ _ _ _ _ _
  | .vimin _ _ _ _ _ _ => some { b := true, lam := 5 }
  | .vimac _ _ _ _ _ _ => some { b := true, c := true, lam := 5 }
  | .vnot _ _ _ _ _ => some { lam := 5 }
  | .vperm _ _ _ _ _ _ => some { b := true, lam := 8 }
  | .vtrans _ _ _ _ _ | .vpack _ _ _ _ _ => some { lam := 8 }
  | .vrsum _ _ _ _ _ | .vcsum _ _ _ _ _ | .vrmax _ _ _ _ _ | .vcmax _ _ _ _ _ => some { lam := 10 }
  | .vexp2 _ _ _ _ _ | .vlog2 _ _ _ _ _ | .vrcp _ _ _ _ _ | .vrsqrt _ _ _ _ _ => some { lam := 14 }
  | .vexp _ _ _ _ _ | .vlog _ _ _ _ _ => some { lam := 18 }
  | .vtanh _ _ _ _ _ | .vsigm _ _ _ _ _ => some { lam := 24 }
  | _ => none

/-- The port conflict on the bank of vd where it is certain: whatever the tail holds or names, the write meets another. The
fields that the head names bound e, and vc, which the tail names, can add one (R183, R185). -/
def State.headBank (s : State) (i : Instr) (bits : IWord) : Check :=
  let vd := (bits.extractLsb' 15 6).toNat
  match headForm i with
  | none => none
  | some k =>
    let field (reads : Bool) (x : BitVec 6) : List Nat := (⟨reads, false, x.toNat, none⟩ : VSrc).regs
    let regs := field true (bits.extractLsb' 9 6) ++ field k.b (bits.extractLsb' 3 6)
    let most := extraTicks regs + (k.c && !regs.isEmpty).toNat
    chk (decide (vd < 48) && (List.range (most + 1)).all (fun e =>
      s.me.bankWrites.contains (vd % 6, s.now + e + k.lam - 1))) 0x15 0

/-- The checks of a pair with codes below 0x42 that need nothing of its tail (R73, R76, R77, R177, R184, R185, R203). Of a
VX pair the tail says which sources are read, but for vkac, which has no latch. -/
def State.headChks (s : State) (i : Instr) (bits : IWord) : List Check :=
  let c := s.me
  let vd := (bits.extractLsb' 15 6).toNat
  let dest : Check := if vd < 48 then leaseChk c s.now 5 vd vd else none
  let bank := s.headBank i bits
  let shape (w : Nat) : Check := chk (decide (2 ^ c.rl.toNat < w)) 0x22 0
  match i with
  | .mark _ _ => [s.unshifted]
  | .fork _ m _ => [s.unshifted,
      chk (s.legAddr s.id (legField (strmEngine m)) == 0 || (c.stream (strmEngine m)).st != .unforked) 0x04 0]
  | .addiL _ d a _ | .oriL _ d a _ => [s.sFree a.toNat, s.sFree d.toNat]
  | .vkac _ a _ => c.vkacChks s.now a
  | .aliL _ _ _ | .kopen _ _ _ _ => []
  | .vcmp _ _ d _ _ _ | .vicmp _ _ d _ _ _ => [leaseChk c s.now 6 d.toNat d.toNat]
  | .vrsum _ f _ _ _ | .vcsum _ f _ _ _ | .vrmax _ f _ _ _ | .vcmax _ f _ _ _ => [dest, bank, shape (widthOf (floatTag f.toNat))]
  | .vtrans _ f _ _ _ | .vbcast _ f _ _ _ => [dest, bank, shape (4 / 2 ^ f.toNat)]
  | .vbmm _ f d _ _ _ => [dest, chk (!bmmTag f (vget tileZero c.t d.toNat).tag) 0x21 0]
  | _ => [dest, bank]

/-- The head of a stream issues at this count. Where it cannot be fetched it raises fetch (R51, R94). A tail that a stream is
sent to by a leg record or a kraal does not issue: branch target (R55, log 97). A word that is no instruction stops the model
(R55). DEDUCED: of a pair whose tail is poisoned the checks that need nothing of the tail are made as well (R78, R184), and of
a word whose head is poisoned no other (log 116). -/
def State.issueHead (s : State) (id : CoreId) (e : Engine) : Head :=
  let c := s.coreAt id
  let st := c.stream e
  let k := c.pageKind e
  let h := wrapHead st.reps st.pc
  let naming (w : WordRef) : State := { s with cur := { word := w, pc := h.1, bits := 0, bar := none } }
  match s.wordsAt id.dev (s.ctxNo id) k h.1 with
  | none => .done (.next ((naming (s.headRef id e st.shift)).fault 0x19 (addrDetail .code h.1)))
  | some ws =>
    let bits := ws.headD 0
    let due := st.due (idleOf bits).toNat
    let w := s.headRef id e due.2.1
    match s.fetchPoison id e h.1 with
    | some (cause, detail) => .done (.next ((naming w).fault cause detail))
    | none =>
      if isTail bits || h.1 % 4 != 0 then .done (.next ((naming w).fault 0x53 (addrDetail .code h.1)))
      else match decode k ws with
        | .error _ => .done (.fault .notAnInstruction)
        | .ok (i, n) =>
          match if 1 < n then s.fetchPoison id e (h.1 + 4) else none with
          | some x =>
            let s := naming w
            let f := (firstFault (some x :: (c.barOf w i due.2.2).map (fun code => (code, 0)) :: s.headChks i bits)).getD x
            .done (.next (s.fault f.1 f.2))
          | none => .word i (s.took id e w bits h.1 n due.2.1 (c.barOf w i due.2.2) h.2.1 h.2.2)

/-! ## One turn -/

/-- The first effect in flight performs. -/
def stepEffect (s : State) (p : Pend) (rest : List Pend) : Out :=
  exec p.act (s.taking p rest)

/-- The head of a stream issues. -/
def stepIssue (s : State) (id : CoreId) (e : Engine) : Out :=
  match s.issueHead id e with
  | .word i s => exec i s
  | .done o => o

/-- One turn of the group. Effects that come before the words of a count, then the words, then the other effects of the
count, then the next count. -/
def turn (s : State) : Out :=
  match s.agenda with
  | [] =>
    match s.firstDue with
    | some (id, e) => stepIssue s id e
    | none => .next s.advanced
  | p :: rest =>
    if p.at' ≤ s.now ∧ p.phase < phIssue then stepEffect s p rest
    else
      match s.firstDue with
      | some (id, e) => stepIssue s id e
      | none => if p.at' ≤ s.now then stepEffect s p rest else .next s.advanced

end Sys2Proof.Machine
end

