-- ==== Sys2Proof/Machine/Step.lean ====
section
/-! DEFINITION. One step of the group, and a state whose next step runs a given word (log 3, log 4). -/

namespace Sys2Proof.Machine

/-- One step of the group. -/
def step (s : State) : Host.Outcome State Fault Refusal := turn s

/-- s with the word stored where the next step fetches it (log 3). -/
def State.withFetchWord (s : State) (nbits w : Nat) : State := s.placing nbits w

end Sys2Proof.Machine
end

