-- ==== Sys2Proof/Safety.lean ====
section
/-! DEFINITION. What counts as a sound state and a completed step, in the terms the claims use. -/

namespace Sys2Proof.Machine

/-- SP and LOFT of a core are in canonical form (log 6). -/
def Core.memWf (c : Core) : Bool := Memory.wf c.sp && Memory.wf c.loft

/-- Every memory of the group, those of saved cores and of HOST and POOL included, is in canonical form (log 6). -/
def State.memWf (s : State) : Prop :=
  (∀ x ∈ s.devs, Memory.wf x.2.hbm = true) ∧ (∀ x ∈ s.cores, x.2.memWf = true) ∧
    (∀ x ∈ s.runs, ∀ y ∈ x.2.savedCores, y.2.memWf = true) ∧
    (∀ x ∈ s.host, Memory.wf x.2 = true) ∧ ∀ x ∈ s.pool, Memory.wf x.2 = true

/-- No event queue of the group holds more than 256 records (R108). -/
def State.queuesWithin (s : State) : Prop := ∀ d c, (s.ctx d c).evq.length ≤ 256

/-! ## What a step leaves -/

/-- A core but for where its four streams stand. -/
def Core.still (c : Core) : Core := { c with sq := .idle, ax := .idle, vx := .idle, mx := .idle }

/-- Every byte of SP, LOFT, HBM, HOST and POOL reads as before. -/
def State.sameBytes (s t : State) : Prop :=
  (∀ id x, readByte (t.coreAt id).sp x = readByte (s.coreAt id).sp x ∧
    readByte (t.coreAt id).loft x = readByte (s.coreAt id).loft x) ∧
  (∀ d x, readByte (t.dev d).hbm x = readByte (s.dev d).hbm x) ∧
  ∀ pool c x, readByte (t.far pool c) x = readByte (s.far pool c) x

/-- t is s but for the core of the word being executed. -/
def State.onlyMe (s t : State) : Prop :=
  { t with cores := s.cores } = s ∧ ∀ k, k ≠ s.id → t.coreAt k = s.coreAt k

/-- t is s but for one device. -/
def State.onlyDev (s t : State) (d : Nat) : Prop :=
  { t with devs := s.devs } = s ∧ ∀ k, k ≠ d → t.dev k = s.dev k

/-- t is s with s[d] of the executing core holding v: a write to s0 is discarded, and nothing else changes. -/
def State.wroteS (s t : State) (d : BitVec 6) (v : Reg) : Prop :=
  (∀ k : BitVec 6, t.me.rs k.toNat = if k = d ∧ d ≠ 0 then v else s.me.rs k.toNat) ∧
    { t.me with s := s.me.s } = s.me ∧ s.onlyMe t ∧ s.sameBytes t

/-- t is s with p[d] holding v: a write to p0 is discarded. -/
def State.wroteP (s t : State) (d : BitVec 4) (v : Bool) : Prop :=
  (∀ k : BitVec 4, t.me.rp k.toNat = if k = d ∧ d ≠ 0 then v else s.me.rp k.toNat) ∧
    { t.me with p := s.me.p } = s.me ∧ s.onlyMe t ∧ s.sameBytes t

/-- t is s with a[d] holding v. -/
def State.wroteA (s t : State) (d : BitVec 5) (v : Reg) : Prop :=
  (∀ k : BitVec 5, t.me.ra k.toNat = if k = d then v else s.me.ra k.toNat) ∧
    { t.me with a := s.me.a } = s.me ∧ s.onlyMe t ∧ s.sameBytes t

/-- t is s with n[d] holding v. -/
def State.wroteN (s t : State) (d : BitVec 4) (v : BitVec 32) : Prop :=
  (∀ k : BitVec 4, t.me.rn k.toNat = if k = d then v else s.me.rn k.toNat) ∧
    { t.me with n := s.me.n } = s.me ∧ s.onlyMe t ∧ s.sameBytes t

/-- An effect of the executing word stands in flight in t for a count and phase, behind what stood in flight in s. -/
def State.pends (s t : State) (at' phase : Nat) (i : Instr) : Prop :=
  t.agenda = insertPend ⟨at', phase, 0, 0, 0, s.seq, s.id, i⟩ s.agenda

/-- A register stands under a lease that ends at a count: a word that reads or writes it sooner faults. -/
def State.heldTill (t : State) (fam slot till : Nat) : Prop :=
  ∃ l, leaseOn t.me t.now fam slot = some l ∧ l.till = till

end Sys2Proof.Machine
end

