-- ==== Sys2Proof/WellFormed.lean ====
section
/-! DEFINITION. Well-formedness of an instruction term: the field limits of R38–R49 and of the instruction's own
chapter hold (no reason 0x02, 0x03, 0x07 or 0x08 of R54), and the term is a word of some stream or a step without one. -/

namespace Sys2Proof

/-- The instruction has a word (R34): it stands in some stream's map. -/
def Instr.isWord (i : Instr) : Bool :=
  inMap .sqTimed i || inMap .vx i || inMap .mx i || inMap .ax i

/-- Every field is within its limits (R50). -/
def Instr.wellFormed (i : Instr) : Bool := (defects i).isEmpty

/-- i is an instruction of a page of kind k (R50, R51). -/
def Instr.wellFormedIn (k : PageKind) (i : Instr) : Bool := wordOf k i

end Sys2Proof
end

