-- ==== Sys2Proof/Certificates/Slice0/Obligations.lean ====
section
/-! DEFINITION. The claims. Each says which rules of the manual it formalises. -/

open Sys2Proof Sys2Proof.Machine

/-! ## Words and steps -/

/-- R34–R49: no bit of an encoding is dropped. -/
def Obligations.EncodeThenDecode : Prop :=
  ∀ (k : PageKind) (i : Instr), i.wellFormedIn k = true → decode k (encode i) = .ok (i, (encode i).length)

/-- R34–R49, R54: the decoder accepts the words of an instruction and no others, and what it reads is well-formed. -/
def Obligations.DecodeThenEncode : Prop :=
  ∀ (k : PageKind) (ws : List IWord) (i : Instr) (n : Nat), decode k ws = .ok (i, n) →
    i.wellFormedIn k = true ∧ encode i = ws.take n ∧ n ≤ ws.length

/-- R34: a step at a word that is due runs exactly the instruction that its bits decode to, with the stream standing
behind the words of the instruction, where the words are aligned and no word of it is poisoned. Nothing that precedes the
words of the count is due (log 2). -/
def Obligations.StepRunsDecodedWord : Prop :=
  ∀ (s : State) (id : CoreId) (e : Engine) (pc : Nat) (ws : List IWord) (i : Instr) (n : Nat),
    (∀ p ∈ s.agenda.head?, s.now < p.at' ∨ phIssue ≤ p.phase) → s.firstDue = some (id, e) → e ∈ engines →
    (wrapHead ((s.coreAt id).stream e).reps ((s.coreAt id).stream e).pc).1 = pc → pc % 4 = 0 →
    s.wordsAt id.dev (s.ctxNo id) ((s.coreAt id).pageKind e) pc = some ws →
    decode ((s.coreAt id).pageKind e) ws = .ok (i, n) → (∀ j < n, s.fetchPoison id e (pc + 4 * j) = none) →
    ∃ t, step s = exec i t ∧ t.now = s.now ∧ t.cur.word.id = id ∧ t.cur.word.eng = e ∧
      t.cur.word.issue = s.now - (s.coreAt id).base ∧ t.cur.pc = pc ∧ ((t.coreAt id).stream e).pc = pc + 4 * n ∧
      { (t.coreAt id).still with arb := (s.coreAt id).arb } = (s.coreAt id).still ∧
      (∀ k, k ≠ id → t.coreAt k = s.coreAt k) ∧ s.sameBytes t

/-- R2, R57, R58 (the order within a count is log 2): an effect in flight that is due performs, and where nothing is due
the count goes on to a later one, whatever the registers and memories hold. -/
def Sys2Proof.Claims.stepTakesEffectsInOrder : Prop :=
  (∀ (s : State) (p : Pend) (rest : List Pend), s.agenda = p :: rest → p.at' ≤ s.now →
    p.phase < phIssue ∨ s.firstDue = none →
    step s = exec p.act (s.taking p rest) ∧ (s.taking p rest).id = p.who ∧ s.sameBytes (s.taking p rest)) ∧
  ∀ s : State, (∀ p ∈ s.agenda.head?, s.now < p.at') → s.firstDue = none →
    ∃ t, step s = .next t ∧ s.now < t.now ∧ s.sameBytes t ∧ t.agenda = s.agenda ∧
      (∀ id, (t.coreAt id).s = (s.coreAt id).s ∧ (t.coreAt id).p = (s.coreAt id).p)

/-- R51, R94: a head that no page of its kind maps raises fetch. -/
def Sys2Proof.Claims.unmappedHeadRaisesFetch : Prop :=
  ∀ (s : State) (id : CoreId) (e : Engine) (r : Nat),
    (∀ p ∈ s.agenda.head?, s.now < p.at' ∨ phIssue ≤ p.phase) → s.firstDue = some (id, e) →
    (s.coreAt id).run = some r → (s.run r).live = true →
    s.wordAt id.dev (s.ctxNo id) ((s.coreAt id).pageKind e)
      (wrapHead ((s.coreAt id).stream e).reps ((s.coreAt id).stream e).pc).1 = none →
    ∃ t f, step s = .next t ∧ (t.run r).faults = (s.run r).faults ++ [f] ∧ f.cause = 0x19 ∧ f.t = s.now ∧
      f.detail = addrDetail .code (wrapHead ((s.coreAt id).stream e).reps ((s.coreAt id).stream e).pc).1 ∧
      s.sameBytes t

/-- R55: a stream that is sent to a word that is no instruction's first raises the branch-target fault there, whoever sent
it: that a leg record or a kraal is such a sender is the model's choice (log 97). -/
def Sys2Proof.Claims.tailHeadRaisesBranchTarget : Prop :=
  ∀ (s : State) (id : CoreId) (e : Engine) (r pc : Nat) (w : IWord),
    (∀ p ∈ s.agenda.head?, s.now < p.at' ∨ phIssue ≤ p.phase) → s.firstDue = some (id, e) →
    (s.coreAt id).run = some r → (s.run r).live = true →
    (wrapHead ((s.coreAt id).stream e).reps ((s.coreAt id).stream e).pc).1 = pc →
    s.wordAt id.dev (s.ctxNo id) ((s.coreAt id).pageKind e) pc = some w → isTail w = true ∨ pc % 4 ≠ 0 →
    s.fetchPoison id e pc = none →
    ∃ t f, step s = .next t ∧ (t.run r).faults = (s.run r).faults ++ [f] ∧ f.cause = 0x53 ∧ f.t = s.now ∧
      f.detail = addrDetail .code pc ∧ s.sameBytes t

/-- R2, R51, R55, R57, R58, R94: the steps of the machine that run no decoded word. -/
def Obligations.StepsThatRunNoInstruction : Prop :=
  Sys2Proof.Claims.stepTakesEffectsInOrder ∧ Sys2Proof.Claims.unmappedHeadRaisesFetch ∧
    Sys2Proof.Claims.tailHeadRaisesBranchTarget

/-- R60, R63, R97, R108, R112, R205, R272, R316, R325, R327: what reset leaves. -/
def Sys2Proof.Claims.resetValues : Prop :=
  (∀ id, (State.reset.coreAt id).rs 0 = 0 ∧ (State.reset.coreAt id).rp 0 = true ∧
    (State.reset.coreAt id).rrb = 0 ∧ (State.reset.coreAt id).tvec = 0 ∧ (State.reset.coreAt id).bound = 0 ∧
    (State.reset.coreAt id).rl.toNat = 10 ∧ (State.reset.coreAt id).leases = [] ∧
    (State.reset.coreAt id).run = none) ∧
  (∀ d, (State.reset.dev d).partset = 0 ∧ (State.reset.dev d).rasmark = 0x100 ∧
    (State.reset.dev d).rasleak = 20 ∧ (State.reset.dev d).pwrcap = 2000 ∧ (State.reset.dev d).bootst = 0 ∧
    (∀ l, (State.reset.link d l).up = false) ∧
    ∀ c, (State.reset.ctx d c).evq = [] ∧ (State.reset.ctx d c).evqLost = 0 ∧ (State.reset.ctx d c).control = false) ∧
  State.reset.now = 0 ∧ State.reset.agenda = [] ∧ State.reset.runs = [] ∧ State.reset.holds = []

/-! ## Invariants -/

/-- Log 6: the canonical form of memory holds at reset. -/
def Sys2Proof.Claims.resetMemoryCanonical : Prop := State.reset.memWf ∧ State.reset.queuesWithin

/-- R60, R63, R97, R108, R112, R205, R272, R316, R325, R327: the state at reset has the values that the manual gives, and its
memories and queues are in order (log 5, log 6). -/
def Obligations.ResetState : Prop := Sys2Proof.Claims.resetValues ∧ Sys2Proof.Claims.resetMemoryCanonical

/-- Log 6: every step keeps the canonical form of every memory. -/
def Obligations.StepKeepsMemoryCanonical : Prop := ∀ s t : State, s.memWf → step s = .next t → t.memWf

/-- R108: an event queue holds 256 records and no more; every step keeps it so. -/
def Obligations.StepKeepsEventQueuesBounded : Prop := ∀ s t : State, s.queuesWithin → step s = .next t → t.queuesWithin

/-- R57: the caravan count never falls, and no instruction or effect moves it: it goes on only where nothing is due. -/
def Obligations.CountNeverFalls : Prop :=
  (∀ s t : State, step s = .next t → s.now ≤ t.now) ∧ ∀ (i : Instr) (s t : State), exec i s = .next t → t.now = s.now

/-- R118, R328: only a fuse command, an RMA command, dbgopen and a device reset move the lifecycle state of a device, and
only from MANUFACTURE to PRODUCTION, from PRODUCTION to RMA, from PRODUCTION to DEBUG-UNLOCKED, and back from there. That
power-good before any step of bring-up is the reset is log 86. -/
def Obligations.LifecycleMovesOnlyByCommand : Prop :=
  ∀ (i : Instr) (s t : State) (d : Nat), exec i s = .next t → (t.dev d).life ≠ (s.dev d).life →
    ((∃ signed, i = .fuseCommand d signed) ∧ (s.dev d).life = 0 ∧ (t.dev d).life = 1) ∨
    ((∃ signed, i = .rmaCommand d signed) ∧ (s.dev d).life = 1 ∧ (t.dev d).life = 3) ∨
    ((∃ g, i = .dbgopen g) ∧ d = s.id.dev ∧ (s.dev d).life = 1 ∧ (t.dev d).life = 2 ∧
      (s.ctxOf s.id).control = true ∧ (s.dev d).tokenOk = true ∧ (s.dev d).wipedSince = true) ∨
    ((∃ digest cores, i = .bringUp d 0 digest cores) ∧ (s.dev d).life = 2 ∧ (t.dev d).life = 1)

/-! ## Faults of words -/

/-- R78: a word that fails several checks, one for the place of its issue among them, reports the lowest of the codes, and
one that fails none has its effect. -/
def Obligations.LowestCodeReported : Prop :=
  ∀ (s : State) (checks : List Check) (eff : State → State),
    ((s.cur.bar = none ∧ ∀ c ∈ checks, c = none) ∧ s.word checks eff = .next (eff s)) ∨
    ∃ x, (some x ∈ checks ∨ ∃ code, s.cur.bar = some code ∧ x = (code, 0)) ∧ (∀ y, some y ∈ checks → x.1 ≤ y.1) ∧
      (∀ code, s.cur.bar = some code → x.1 ≤ code) ∧ s.word checks eff = .next (s.fault x.1 x.2)

namespace Sys2Proof.Claims

/-- A word of an itinerary that can still halt faults before its stream has ended. -/
def Faulting (s : State) : Prop :=
  s.me.run = some s.cur.word.run ∧ (s.run s.cur.word.run).live = true ∧ (s.run s.cur.word.run).st ≠ .suspended ∧
    (s.run s.cur.word.run).st ≠ .readmitted ∧ s.cur.word.eng ∈ engines ∧ (s.me.stream s.cur.word.eng).st ≠ .ended

/-- t is s after a fault of the executing word (R79, R307): its stream has stopped at the word, its fault is recorded, and no
register, no byte and no other stream has changed. -/
def Faulted (s t : State) (cause : Nat) (detail : BitVec 256) : Prop :=
  (t.me.stream s.cur.word.eng).st = .stopped ∧ (t.me.stream s.cur.word.eng).pc = s.cur.pc ∧
    (∀ e ∈ engines, e ≠ s.cur.word.eng → t.me.stream e = s.me.stream e) ∧
    (∀ id, (t.coreAt id).still = (s.coreAt id).still) ∧ s.sameBytes t ∧
    ∃ f, (t.run s.cur.word.run).faults = (s.run s.cur.word.run).faults ++ [f] ∧ f.cause = cause ∧ f.t = s.now ∧
      f.detail = detail ∧ f.lcore = s.id.core ∧ f.eng = s.cur.word.eng

/-- R79, R85, R305–R307, R311: a fault outside an open kraal, at the count of its kopen, or of another code than those that
unwind a kraal, halts its itinerary: halt flits that carry the count and the scope leave for every member. -/
def faultHalts : Prop :=
  ∀ (s : State) (cause : Nat) (detail : BitVec 256), Faulting s → scopeOf cause = .itinerary →
    (s.me.kraal = none ∨ (cause ≠ 0x42 ∧ cause ≠ 0x43) ∨ ∃ k, s.me.kraal = some k ∧ s.now ≤ k.opened) →
    Faulted s (s.fault cause detail) cause detail ∧
    (∃ x, ((s.fault cause detail).run s.cur.word.run).halt = some x ∧ x.1 ≤ s.now) ∧
    ∀ m ∈ (s.run s.cur.word.run).members, ∃ p ∈ (s.fault cause detail).agenda,
      p.act = .haltFlit m.1 s.cur.word.run s.now .itinerary s.id.dev cause ∧
      p.at' = s.now + s.controlLatency s.id.dev m.1

/-- R79, R305, R307, R311: an error consumed (0x42) or a bellwether mismatch (0x43) in a kraal that has been open since an
earlier count begins no halt: the end of the count, when a kclose of that count has closed the kraal, is to decide whether it
unwinds. -/
def kraalFaultUnwinds : Prop :=
  ∀ (s : State) (cause : Nat) (detail : BitVec 256) (k : Kraal), Faulting s → cause = 0x42 ∨ cause = 0x43 →
    s.me.kraal = some k → k.opened < s.now →
    Faulted s (s.fault cause detail) cause detail ∧
    ((s.fault cause detail).run s.cur.word.run).halt = (s.run s.cur.word.run).halt ∧
    ∃ p ∈ (s.fault cause detail).agenda, p.at' = s.now ∧ p.phase = phEnd ∧
      p.act = .unwindFlit s.id.dev s.cur.word.run ⟨s.now, k.region, k.herd, cause⟩ (some s.cur.word)

end Sys2Proof.Claims

/-- R79, R85, R305–R307, R311: a word that faults has no effect on registers and memories, its stream issues no further word,
its fault is recorded, and its itinerary halts or, where R305 says so, its kraal is to unwind. -/
def Obligations.FaultStopsStreamAndHalts : Prop := Sys2Proof.Claims.faultHalts ∧ Sys2Proof.Claims.kraalFaultUnwinds

/-- R184: a VX word that issues within the occupancy of the word before it, and fails no check of a lower code, raises
occupancy conflict; two words of different shapes stand for it. -/
def Sys2Proof.Claims.earlyWordRaisesOccupancyConflict : Prop :=
  ∀ (s : State) (g : BitVec 4) (r : BitVec 5) (w : BitVec 21), s.cur.word.eng = .vx → s.cur.bar = some 0x15 →
    exec (.vshape g r) s = .next (s.fault 0x15 0) ∧ exec (.idle g w) s = .next (s.fault 0x15 0)

/-- R75, R79: a timed word of SQ that issues at a listed tick and is no yield raises yield fault in place of its effect,
where it fails no check of a lower code. -/
def Sys2Proof.Claims.otherWordAtListedTickFaults : Prop :=
  ∀ (s : State) (g : BitVec 4) (d a b : BitVec 6) (w : BitVec 21), s.cur.word.eng = .sq → s.cur.bar = some 0x09 →
    exec (.idle g w) s = .next (s.fault 0x09 0) ∧
    (s.sFree a.toNat = none → s.sFree b.toNat = none → s.sFree d.toNat = none →
      exec (.add g d a b) s = .next (s.fault 0x09 0))

/-- R75, R184: what the place of its issue earns a word that issues. -/
def Sys2Proof.Claims.barsOfPlace : Prop :=
  ∀ (c : Core) (w : WordRef) (i : Instr),
    c.barOf w i true = some 0x15 ∧
    (c.barOf w i false = some 0x09 ↔
      w.eng = .sq ∧ w.wp = false ∧ c.yieldDue = some w.issue ∧ ∀ g, i ≠ .yieldW g) ∧
    (c.barOf w i false = some 0x09 ∨ c.barOf w i false = none)

/-! ## The sequencer -/

namespace Sys2Proof.Claims

/-- The register forms with λ = 1 and their results (R89). -/
def aluWords (g : BitVec 4) (d a b : BitVec 6) : List (Instr × (Reg → Reg → Reg)) :=
  [(.add g d a b, fun x y => x + y), (.sub g d a b, fun x y => x - y), (.andR g d a b, fun x y => x &&& y),
   (.orR g d a b, fun x y => x ||| y), (.xorR g d a b, fun x y => x ^^^ y),
   (.shl g d a b, fun x y => x <<< (y &&& 63)), (.shr g d a b, fun x y => x >>> (y &&& 63)),
   (.sra g d a b, fun x y => x.sshiftRight' (y &&& 63))]

/-- The register forms with λ > 1, their latencies and results (R88, R89). -/
def longWords (g : BitVec 4) (d a b : BitVec 6) : List (Instr × Nat × (Reg → Reg → Reg)) :=
  [(.mul g d a b, 4, fun x y => x * y),
   (.mulh g d a b, 4, fun x y => (x.signExtend 128 * y.signExtend 128).extractLsb' 64 64),
   (.mulhu g d a b, 4, fun x y => (x.setWidth 128 * y.setWidth 128).extractLsb' 64 64),
   (.divS g d a b, 24, fun x y => if y = 0 then BitVec.allOnes 64 else x.sdiv y),
   (.divu g d a b, 24, fun x y => if y = 0 then BitVec.allOnes 64 else x.udiv y),
   (.rem g d a b, 24, fun x y => if y = 0 then x else x.srem y),
   (.remu g d a b, 24, fun x y => if y = 0 then x else x.umod y)]

/-- The immediate forms and their results (R90): m is the 9-bit immediate, l the 30-bit one of the long forms. -/
def immWords (g : BitVec 4) (d a : BitVec 6) (m : BitVec 9) (l : BitVec 30) : List (Instr × (Reg → Reg)) :=
  [(.addi g d a m, fun x => x + m.signExtend 64), (.andi g d a m, fun x => x &&& m.signExtend 64),
   (.ori g d a m, fun x => x ||| m.signExtend 64), (.xori g d a m, fun x => x ^^^ m.signExtend 64),
   (.shli g d a m, fun x => x <<< m.toNat), (.shri g d a m, fun x => x >>> m.toNat),
   (.srai g d a m, fun x => x.sshiftRight m.toNat), (.addiL g d a l, fun x => x + l.signExtend 64),
   (.oriL g d a l, fun x => x ||| l.signExtend 64)]

/-- The compares of two registers and their conditions (R91). -/
def cmpWords (g d : BitVec 4) (a b : BitVec 6) : List (Instr × (Reg → Reg → Prop)) :=
  [(.cmpEq g d a b, fun x y => x = y), (.cmpNe g d a b, fun x y => x ≠ y), (.cmpLt g d a b, fun x y => x.toInt < y.toInt),
   (.cmpGe g d a b, fun x y => y.toInt ≤ x.toInt), (.cmpLtu g d a b, fun x y => x.toNat < y.toNat),
   (.cmpGeu g d a b, fun x y => y.toNat ≤ x.toNat)]

/-- The compares with an immediate and their conditions (R91). -/
def cmpiWords (g d : BitVec 4) (a : BitVec 6) (m : BitVec 8) : List (Instr × (Reg → Reg → Prop)) :=
  [(.cmpiEq g d a m, fun x y => x = y), (.cmpiNe g d a m, fun x y => x ≠ y),
   (.cmpiLt g d a m, fun x y => x.toInt < y.toInt), (.cmpiGe g d a m, fun x y => y.toInt ≤ x.toInt),
   (.cmpiLtu g d a m, fun x y => x.toNat < y.toNat), (.cmpiGeu g d a m, fun x y => y.toNat ≤ x.toNat)]

/-- The predicate words and their results (R92). -/
def predWords (g d a b : BitVec 4) : List (Instr × (Bool → Bool → Bool)) :=
  [(.pand g d a b, fun x y => x && y), (.por g d a b, fun x y => x || y), (.pxor g d a b, fun x y => x != y),
   (.pandn g d a b, fun x y => x && !y), (.porn g d a b, fun x y => x || !y)]

end Sys2Proof.Claims

open Sys2Proof.Claims

/-- R38, R88, R89: add, sub, and, or, xor, shl, shr and sra write s[d] with their results of s[a] and s[b], and nothing
else; with d = 0 nothing changes. -/
def Sys2Proof.Claims.sqRegisterArithmetic : Prop :=
  ∀ (g : BitVec 4) (d a b : BitVec 6), ∀ o ∈ aluWords g d a b, ∀ s : State, s.cur.early = false →
    s.sFree a.toNat = none → s.sFree b.toNat = none → s.sFree d.toNat = none →
    ∃ t, exec o.1 s = .next t ∧ s.wroteS t d (o.2 (s.me.rs a.toNat) (s.me.rs b.toNat))

/-- R88, R89, R77: mul, mulh, mulhu (λ = 4), div, divu, rem and remu (λ = 24) lease s[d] until their result tick and leave
every register as it is; their result stands in flight, for the end of the tick before, in the slot that d names now. -/
def Obligations.SqLongArithmetic : Prop :=
  ∀ (g : BitVec 4) (d a b : BitVec 6), ∀ o ∈ longWords g d a b, ∀ s : State, s.cur.early = false →
    s.sFree a.toNat = none → s.sFree b.toNat = none → s.sFree d.toNat = none →
    ∃ t, exec o.1 s = .next t ∧
      s.pends t (s.now + o.2.1 - 1) phResult (.leasedResult s.cur.word
        (.sReg (sSlot s.me d.toNat) (o.2.2 (s.me.rs a.toNat) (s.me.rs b.toNat)))) ∧
      t.heldTill 0 (sSlot t.me d.toNat) (s.now + o.2.1) ∧
      { t.me.still with leases := s.me.leases } = s.me.still ∧ s.sameBytes t ∧
      ∀ k, k ≠ s.id → t.coreAt k = s.coreAt k

/-- R90: the immediate forms write s[d] with their results of s[a]. -/
def Sys2Proof.Claims.sqImmediateForms : Prop :=
  ∀ (g : BitVec 4) (d a : BitVec 6) (m : BitVec 9) (l : BitVec 30), ∀ o ∈ immWords g d a m l, ∀ s : State,
    s.cur.early = false → s.sFree a.toNat = none → s.sFree d.toNat = none →
    ∃ t, exec o.1 s = .next t ∧ s.wroteS t d (o.2 (s.me.rs a.toNat))

/-- R38, R88–R90: the register and immediate forms with λ = 1. -/
def Obligations.SqArithmetic : Prop := Sys2Proof.Claims.sqRegisterArithmetic ∧ Sys2Proof.Claims.sqImmediateForms

/-- R91: cmp writes p[d] with whether its condition holds of s[a] and s[b], cmpi of s[a] and the sign-extended
immediate. -/
def Sys2Proof.Claims.sqCompares : Prop :=
  ∀ (g d : BitVec 4) (a b : BitVec 6) (m : BitVec 8) (s : State), s.cur.early = false →
    s.sFree a.toNat = none → s.pFree d.toNat = none →
    (s.sFree b.toNat = none → ∀ o ∈ cmpWords g d a b, ∃ t v, exec o.1 s = .next t ∧ s.wroteP t d v ∧
      (v = true ↔ o.2 (s.me.rs a.toNat) (s.me.rs b.toNat))) ∧
    ∀ o ∈ cmpiWords g d a m, ∃ t v, exec o.1 s = .next t ∧ s.wroteP t d v ∧
      (v = true ↔ o.2 (s.me.rs a.toNat) (m.signExtend 64))

/-- R92: the predicate words write p[d] from p[a] and p[b]; pnot from p[a]. -/
def Sys2Proof.Claims.sqPredicateWords : Prop :=
  ∀ (g d a b : BitVec 4) (s : State), s.cur.early = false → s.pFree a.toNat = none → s.pFree d.toNat = none →
    (s.pFree b.toNat = none → ∀ o ∈ predWords g d a b, ∃ t, exec o.1 s = .next t ∧
      s.wroteP t d (o.2 (s.me.rp a.toNat) (s.me.rp b.toNat))) ∧
    ∃ t, exec (.pnot g d a) s = .next t ∧ s.wroteP t d (!s.me.rp a.toNat)

/-- R77, R307: an arithmetic word that reads or writes a leased register raises lease fault, and the record names the
register, the issue tick of the lease's holder and ρ. -/
def Sys2Proof.Claims.leasedOperandRaisesLeaseFault : Prop :=
  ∀ (g : BitVec 4) (d a b : BitVec 6) (s : State) (i : Instr), s.cur.early = false →
    i ∈ (aluWords g d a b).map (·.1) ++ (longWords g d a b).map (·.1) →
    (∃ x ∈ [a, b, d], s.sFree x.toNat ≠ none) →
    ∃ x ∈ [a, b, d], ∃ q, leaseOn s.me s.now 0 (sSlot s.me x.toNat) = some q ∧ s.now < q.till ∧
      exec i s = .next (s.fault 0x08
        (BitVec.ofNat 256 (x.toNat + q.issue * 2 ^ 32 + q.rho * 2 ^ 64)))

/-- R77, R184, R307: a word that reads or writes a leased register, or that issues within the occupancy of the VX word
before it, faults; R75: so does one that issues at a listed tick and is no yield. -/
def Obligations.LeasesAndOccupancyFault : Prop :=
  Sys2Proof.Claims.leasedOperandRaisesLeaseFault ∧ Sys2Proof.Claims.earlyWordRaisesOccupancyConflict ∧
    Sys2Proof.Claims.otherWordAtListedTickFaults ∧ Sys2Proof.Claims.barsOfPlace

/-- What is left of the split buffer when an arm has lost: the poisoned entries outside it (R94; log 25). -/
def Sys2Proof.Claims.leavesArm (s t : State) (lost won : Nat) : Prop :=
  ∀ x, x ∈ t.me.split ↔ x ∈ s.me.split ∧ x.2 ∉ s.armWords s.cur.pc lost won

/-- The bucket of each split bank after an arm has lost: WU for each of its poisoned entries there, and, in the bank of the
arm, for each of its words that no page maps (R94, R316). -/
def Sys2Proof.Claims.chargesArm (s t : State) (lost won bank : Nat) : Prop :=
  ∀ b, (look 0 (.splitBank, b) t.me.buckets).toNat =
    min 65535 ((look 0 (.splitBank, b) s.me.buckets).toNat + s.wu s.id.dev *
      ((s.me.split.filter (fun x => x.1 == b && (s.armWords s.cur.pc lost won).contains x.2)).length +
        (if b = bank then ((s.armWords s.cur.pc lost won).filter (fun a =>
          (s.wordAt s.id.dev (s.ctxNo s.id) .sqTimed a).isNone && s.me.split.all (fun x => x.2 != a))).length else 0)))

/-- R94, R95: no word that SQ can come to by the arm taken is recycled with the arm that lost: the rejoin and what follows
it stay (log 25). -/
def Sys2Proof.Claims.armsEndAtTheRejoin : Prop :=
  ∀ (s : State) (branch lost won : Nat), ∀ a ∈ s.armWords branch lost won,
    a ∉ s.armFrom branch armFuel [won] [] ∧ a ∉ s.armWords branch won lost

/-- A taken or untaken branch: where SQ goes on, and what is left of the arm that lost. -/
def Sys2Proof.Claims.branched (s t : State) (taken : Bool) (a : Nat) : Prop :=
  t.me.sq.pc = (if taken then a else s.me.sq.pc) ∧ t.me.s = s.me.s ∧ t.me.p = s.me.p ∧ s.sameBytes t ∧
    (if taken then Sys2Proof.Claims.leavesArm s t (s.cur.pc + 4) a ∧ Sys2Proof.Claims.chargesArm s t (s.cur.pc + 4) a 0
     else Sys2Proof.Claims.leavesArm s t a (s.cur.pc + 4) ∧ Sys2Proof.Claims.chargesArm s t a (s.cur.pc + 4) 1)

/-- R93: brb goes to its label where p[a] is true and to the next word where it is not; brb.n the other way round. The
half of the split buffer that the losing arm has is recycled (R94): its poisoned entries are gone and charge their banks.
How far an arm goes and which bank holds it is log 25. -/
def Sys2Proof.Claims.balancedBranch : Prop :=
  ∀ (g p : BitVec 4) (o : BitVec 16) (s : State), s.cur.early = false → s.pFree p.toNat = none →
    ((s.me.rp p.toNat = true → firstFault (s.transferChks .sqTimed false (s.target o.toInt)) = none) →
      ∃ t, exec (.brb g p o) s = .next t ∧
        Sys2Proof.Claims.branched s t (s.me.rp p.toNat) (s.cur.pc + 4 * o.toInt).toNat) ∧
    ((s.me.rp p.toNat = false → firstFault (s.transferChks .sqTimed false (s.target o.toInt)) = none) →
      ∃ t, exec (.brbN g p o) s = .next t ∧
        Sys2Proof.Claims.branched s t (!s.me.rp p.toNat) (s.cur.pc + 4 * o.toInt).toNat)

/-- R96, R97: loop counts s[c] down and goes to its label where it was not zero; the stage predicates shift, p8 says
whether the count was above the stages, and RRB turns down by one. -/
def Sys2Proof.Claims.loopTurns : Prop :=
  ∀ (g : BitVec 4) (c : BitVec 6) (stg : BitVec 3) (o : BitVec 12) (s : State), s.cur.early = false →
    s.sFree c.toNat = none → (∀ j < 8, s.pFree (8 + j) = none) →
    (s.me.rs c.toNat ≠ 0 → firstFault (s.transferChks .sqTimed false (s.target o.toInt)) = none) →
    ∃ t, exec (.loop g c stg o) s = .next t ∧
      (t.me.sq.pc = if s.me.rs c.toNat = 0 then s.me.sq.pc else (s.cur.pc + 4 * o.toInt).toNat) ∧
      (c ≠ 0 → vget 0 t.me.s (sSlot s.me c.toNat) =
        if s.me.rs c.toNat = 0 then s.me.rs c.toNat else s.me.rs c.toNat - 1) ∧
      t.me.rrb.toNat = (s.me.rrb.toNat + 31) % 32 ∧
      (t.me.rp 8 = true ↔ stg.toNat < (s.me.rs c.toNat).toNat) ∧
      (∀ j < 7, t.me.rp (9 + j) = s.me.rp (8 + j)) ∧ (∀ j < 8, t.me.rp j = s.me.rp j) ∧
      (∀ k, k ≠ sSlot s.me c.toNat → vget 0 t.me.s k = vget 0 s.me.s k) ∧ s.onlyMe t ∧ s.sameBytes t

/-- R99: jmp and call go to their label, call writes s63 with the address of the next word, ret goes to s63. -/
def Sys2Proof.Claims.untimedTransfers : Prop :=
  ∀ (o : BitVec 21) (s : State), s.cur.early = false →
    (firstFault (s.transferChks .sqWaypoint true (s.target o.toInt)) = none →
      (∃ t, exec (.jmp o) s = .next t ∧ t.me.sq.pc = (s.cur.pc + 4 * o.toInt).toNat ∧ t.me.still = s.me.still ∧
        s.onlyMe t ∧ s.sameBytes t) ∧
      (s.sFree 63 = none → ∃ t, exec (.call o) s = .next t ∧ t.me.sq.pc = (s.cur.pc + 4 * o.toInt).toNat ∧
        t.me.rs 63 = BitVec.ofNat 64 (s.cur.pc + 4) ∧ (∀ k < 63, t.me.rs k = s.me.rs k) ∧ s.onlyMe t ∧ s.sameBytes t)) ∧
    (s.sFree 63 = none → firstFault (s.transferChks .sqWaypoint true (s.me.rs 63).toNat) = none →
      ∃ t, exec .ret s = .next t ∧ t.me.sq.pc = (s.me.rs 63).toNat ∧ t.me.still = s.me.still ∧ s.onlyMe t ∧
        s.sameBytes t)

/-- R93, R99: the balanced branch and the untimed transfers. -/
def Obligations.SqTransfers : Prop :=
  Sys2Proof.Claims.balancedBranch ∧ Sys2Proof.Claims.armsEndAtTheRejoin ∧ Sys2Proof.Claims.untimedTransfers

/-- R114, R115: trap in waypoint code enters the handler: TEPC, TCAUSE and TSTATE are written and SQ goes to TVEC; eret
clears TSTATE and goes to TEPC. -/
def Sys2Proof.Claims.trapEntersHandlerAndEretReturns : Prop :=
  ∀ (g : BitVec 4) (c : BitVec 8) (s : State), s.cur.early = false → s.cur.word.wp = true →
    (s.me.tstate = false → s.me.tvec ≠ 0 → firstFault (s.transferChks .sqWaypoint false s.me.tvec.toNat) = none →
      ∃ t, exec (.trap g c) s = .next t ∧ t.me.tepc = BitVec.ofNat 64 (s.cur.pc + 4) ∧ t.me.tcause = 0x50#8 ++ c ∧
        t.me.tstate = true ∧ t.me.sq.pc = s.me.tvec.toNat ∧
        { t.me.still with tepc := s.me.tepc, tcause := s.me.tcause, tstate := s.me.tstate } = s.me.still ∧
        s.onlyMe t ∧ s.sameBytes t) ∧
    (s.me.tstate = true → firstFault (s.transferChks .sqWaypoint true s.me.tepc.toNat) = none →
      ∃ t, exec (.eret g) s = .next t ∧ t.me.tstate = false ∧ t.me.sq.pc = s.me.tepc.toNat ∧
        { t.me.still with tstate := s.me.tstate } = s.me.still ∧ s.onlyMe t ∧ s.sameBytes t)

/-- R114, R115, R305: trap in timed code raises software trap with its code; in waypoint code without a handler, or in a
handler, double trap; eret outside a handler raises 0x52, and one whose target fails a check of R99 that fault. -/
def Sys2Proof.Claims.trapFaults : Prop :=
  ∀ (g : BitVec 4) (c : BitVec 8) (s : State), s.cur.early = false →
    (s.cur.word.wp = false → exec (.trap g c) s = .next (s.fault 0x50 (c.setWidth 256))) ∧
    (s.cur.word.wp = true → s.me.tstate = true ∨ s.me.tvec = 0 → exec (.trap g c) s = .next (s.fault 0x51 0)) ∧
    (s.cur.word.wp = true → s.me.tstate = false → exec (.eret g) s = .next (s.fault 0x52 0)) ∧
    (s.cur.word.wp = true → s.me.tstate = true → ∀ x, firstFault (s.transferChks .sqWaypoint true s.me.tepc.toNat) = some x →
      exec (.eret g) s = .next (s.fault x.1 x.2))

/-! ## Words that streams share -/

/-- R68, R70, R71, R72, R76, R324: idle delays its own stream by w ticks and does nothing else; tkset puts its write in
flight for its own tick; a tkchk or mark that passes changes nothing (a tkchk is counted). -/
def Sys2Proof.Claims.sharedWordsComplete : Prop :=
  ∀ (g : BitVec 4) (w : BitVec 21) (n : BitVec 22) (k : BitVec 6) (st ph : Bool) (s : State), s.cur.early = false →
    s.cur.word.eng ∈ engines →
    (∃ t, exec (.idle g w) s = .next t ∧ t.me.still = s.me.still ∧
      t.me.stream s.cur.word.eng =
        { s.me.stream s.cur.word.eng with ready := (s.me.stream s.cur.word.eng).ready + w.toNat } ∧
      (∀ e ∈ engines, e ≠ s.cur.word.eng → t.me.stream e = s.me.stream e) ∧ s.onlyMe t ∧ s.sameBytes t) ∧
    (∃ t, exec (.tkset g k st ph) s = .next t ∧
      s.pends t s.now phResult (.leasedResult s.cur.word (.token k.toNat st ph)) ∧ t.cores = s.cores ∧ s.sameBytes t) ∧
    (s.cur.word.issue = s.cur.word.nominal →
      (s.me.tkState.getLsbD k.toNat = st → s.me.tkPhase.getLsbD k.toNat = ph →
        ∃ t, exec (.tkchk g k st ph) s = .next t ∧ { t.me with counters := s.me.counters } = s.me ∧
          vget 0 t.me.counters.tkc k.toNat = vget 0 s.me.counters.tkc k.toNat + 1 ∧ s.onlyMe t ∧ s.sameBytes t) ∧
      (s.tick = n.toNat → exec (.mark g n) s = .next s))

/-- R71, R72, R76, R78: a tkchk whose state bit differs raises token state mismatch, one whose state matches and whose
phase differs token phase mismatch; a mark at another tick raises mark mismatch; a checked word that issues shifted
raises stream shift where no lower code applies. That a tkchk is counted although it faults is the model's reading
(log 63). -/
def Sys2Proof.Claims.checkedWordsFault : Prop :=
  ∀ (g : BitVec 4) (n : BitVec 22) (k : BitVec 6) (st ph : Bool) (s : State), s.cur.early = false →
    (s.me.tkState.getLsbD k.toNat ≠ st →
      ∃ d, exec (.tkchk g k st ph) s = .next ((s.modMe (fun c => c.countTk k)).fault 0x00 d)) ∧
    (s.me.tkState.getLsbD k.toNat = st → s.me.tkPhase.getLsbD k.toNat ≠ ph →
      ∃ d, exec (.tkchk g k st ph) s = .next ((s.modMe (fun c => c.countTk k)).fault 0x01 d)) ∧
    (s.tick ≠ n.toNat → exec (.mark g n) s = .next (s.fault 0x02 (n.setWidth 256))) ∧
    (s.cur.word.issue ≠ s.cur.word.nominal → s.tick = n.toNat → exec (.mark g n) s = .next (s.fault 0x05 0))

/-- R70–R72, R76, R78, R324: the words that every stream has. -/
def Obligations.SharedWords : Prop := Sys2Proof.Claims.sharedWordsComplete ∧ Sys2Proof.Claims.checkedWordsFault

/-- R69, R73, R74, R75, R97, R154: fork starts the stream at the leg record's address and the stated tick; join joins
the streams it names; end ends its stream (AX: ARB returns to 0; timed SQ: RRB returns to 0, and the leg's waypoint
follows at the next tick where it has one, and else the end is decided at the end of the tick); yield marks its tick. What the
leg table holds is read as it stood when the previous count ended (R225; the model's reading, log 156). -/
def Sys2Proof.Claims.streamWordsComplete : Prop :=
  ∀ (g : BitVec 4) (m : Strm) (u : BitVec 22) (js : BitVec 3) (s : State), s.cur.early = false →
    s.cur.word.issue = s.cur.word.nominal →
    (s.tick + 4 ≤ u.toNat → s.legAddr s.id (legField (strmEngine m)) ≠ 0 → (s.me.stream (strmEngine m)).st = .unforked →
      ∃ t, exec (.fork g m u) s = .next t ∧ (t.me.stream (strmEngine m)).st = .running ∧
        (t.me.stream (strmEngine m)).pc = s.legAddr s.id (legField (strmEngine m)) ∧
        (t.me.stream (strmEngine m)).ready = u.toNat ∧ (t.me.stream (strmEngine m)).shift = 0 ∧
        (∀ e ∈ engines, e ≠ strmEngine m → t.me.stream e = s.me.stream e) ∧ t.me.still = s.me.still ∧ s.onlyMe t) ∧
    ((∀ x ∈ [(0, Engine.vx), (1, Engine.mx), (2, Engine.ax)], js.getLsbD x.1 = true →
        (s.me.stream x.2).st = .ended ∧ (s.me.stream x.2).endTick < s.tick ∧
        ∀ l ∈ s.me.leases, l.eng = x.2 → l.till ≤ s.now) →
      ∃ t, exec (.join g js) s = .next t ∧
        (∀ x ∈ [(0, Engine.vx), (1, Engine.mx), (2, Engine.ax)], t.me.stream x.2 =
          { s.me.stream x.2 with joined := (s.me.stream x.2).joined || js.getLsbD x.1 }) ∧
        t.me.sq = s.me.sq ∧ t.me.still = s.me.still ∧ s.onlyMe t) ∧
    (s.cur.word.eng ∈ [Engine.vx, .mx, .ax] →
      ∃ t, exec (.endW g) s = .next t ∧ (t.me.stream s.cur.word.eng).st = .ended ∧
        (t.me.stream s.cur.word.eng).endTick = s.tick ∧ (s.cur.word.eng = .ax → t.me.arb = 0) ∧
        (∀ e ∈ engines, e ≠ s.cur.word.eng → t.me.stream e = s.me.stream e) ∧
        { t.me.still with arb := s.me.arb } = s.me.still ∧ s.onlyMe t) ∧
    (s.cur.word.eng = .sq → s.cur.word.wp = false → s.me.kraal = none →
      (∀ e ∈ [Engine.vx, .mx, .ax], (s.me.stream e).st = .unforked ∨ (s.me.stream e).joined = true) →
      ∃ t, exec (.endW g) s = .next t ∧ t.me.rrb = 0 ∧ { t.me.still with rrb := s.me.rrb, waypoint := s.me.waypoint } = s.me.still ∧
        (s.legAddr s.id legSqw ≠ 0 → t.me.waypoint = true ∧ t.me.sq.pc = s.legAddr s.id legSqw ∧
          t.me.sq.ready = s.tick + 1 ∧ t.agenda = s.agenda) ∧
        (s.legAddr s.id legSqw = 0 → t.me.sq.st = .ended ∧ t.me.sq.endTick = s.tick ∧
          s.pends t s.now phEnd (.leasedResult s.cur.word .ended))) ∧
    (s.cur.word.eng = .sq → s.cur.word.wp = true →
      ∃ t, exec (.endW g) s = .next t ∧ t.me.sq.st = .ended ∧ t.me.still = s.me.still ∧
        s.pends t s.now phEnd (.leasedResult s.cur.word .ended)) ∧
    (s.cur.word.wp = true ∨ s.tick ∈ s.yieldList s.id s.me.leg →
      ∃ t, exec (.yieldW g) s = .next t ∧ t.me.yielded = some s.tick ∧ { t.me with yielded := s.me.yielded } = s.me ∧
        s.pends t s.now phLast (.leasedResult s.cur.word .yieldPoint))

/-- The streams a join mask names and their bits, in the order of R74. -/
def Sys2Proof.Claims.joinOrder : List (Nat × Engine) := [(0, .vx), (1, .mx), (2, .ax)]

/-- A join of a stream misses: it has not ended by the tick before, or a lease of it lasts (R74). -/
def Sys2Proof.Claims.missesJoin (s : State) (e : Engine) : Prop :=
  (s.me.stream e).st ≠ .ended ∨ s.tick ≤ (s.me.stream e).endTick ∨ ∃ l ∈ s.me.leases, l.eng = e ∧ s.now < l.till

/-- R69, R73, R74, R75, R117: when fork, join, end and yield fault, and with which code; the record of a join miss is
that of the first failing stream (its ENGINE: log 99). -/
def Sys2Proof.Claims.streamWordsFault : Prop :=
  ∀ (g : BitVec 4) (m : Strm) (u : BitVec 22) (js : BitVec 3) (s : State), s.cur.early = false →
    (u.toNat < s.tick + 4 ∨ s.legAddr s.id (legField (strmEngine m)) = 0 ∨
        (s.me.stream (strmEngine m)).st ≠ .unforked → exec (.fork g m u) s = .next (s.fault 0x04 0)) ∧
    (∀ x ∈ joinOrder, js.getLsbD x.1 = true → missesJoin s x.2 →
      (∀ y ∈ joinOrder, y.1 < x.1 → js.getLsbD y.1 = true → ¬ missesJoin s y.2) →
      exec (.join g js) s = .next (s.raise x.2 s.cur.word true 0x03 0)) ∧
    (s.cur.word.eng = .sq → s.cur.word.wp = false →
      ((∃ e ∈ [Engine.vx, .mx, .ax], (s.me.stream e).st ≠ .unforked ∧ (s.me.stream e).joined = false) →
        exec (.endW g) s = .next (s.fault 0x03 0)) ∧
      ((∀ e ∈ [Engine.vx, .mx, .ax], (s.me.stream e).st = .unforked ∨ (s.me.stream e).joined = true) →
        s.cur.word.issue = s.cur.word.nominal → s.me.kraal ≠ none → exec (.endW g) s = .next (s.fault 0x59 0)) ∧
      (s.tick ∉ s.yieldList s.id s.me.leg → s.cur.word.issue = s.cur.word.nominal →
        exec (.yieldW g) s = .next (s.fault 0x09 0)))

/-- R69, R73–R75, R97, R117: fork, join, end and yield. -/
def Obligations.StreamWords : Prop := Sys2Proof.Claims.streamWordsComplete ∧ Sys2Proof.Claims.streamWordsFault

/-- R158, R159: rep and repn open a body of len + 1 words behind them that runs I times, I at the issue of repn being
n[na] and a count of 0 skipping the body; a head at the end of a body goes back to its first word while iterations are
left, and else leaves it. -/
def Sys2Proof.Claims.repsOpenAndClose : Prop :=
  (∀ (g n : BitVec 4) (len : BitVec 9) (cnt : BitVec 12) (s : State), s.cur.early = false → s.cur.word.eng ∈ engines →
    (∃ t, exec (.rep g len cnt) s = .next t ∧ t.me.still = s.me.still ∧ s.onlyMe t ∧
      t.me.stream s.cur.word.eng = { s.me.stream s.cur.word.eng with reps :=
        ⟨s.cur.pc + 4, s.cur.pc + 4 + 4 * (len.toNat + 1), cnt.toNat⟩ :: (s.me.stream s.cur.word.eng).reps }) ∧
    (s.me.rn n.toNat ≠ 0 → ∃ t, exec (.repn g len n) s = .next t ∧ t.me.still = s.me.still ∧ s.onlyMe t ∧
      t.me.stream s.cur.word.eng = { s.me.stream s.cur.word.eng with reps :=
        ⟨s.cur.pc + 4, s.cur.pc + 4 + 4 * (len.toNat + 1), (s.me.rn n.toNat).toNat - 1⟩ ::
          (s.me.stream s.cur.word.eng).reps }) ∧
    (s.me.rn n.toNat = 0 → ∃ t, exec (.repn g len n) s = .next t ∧ t.me.still = s.me.still ∧ s.onlyMe t ∧
      t.me.stream s.cur.word.eng =
        { s.me.stream s.cur.word.eng with pc := s.cur.pc + 4 + 4 * (len.toNat + 1) })) ∧
  ∀ (r : Rep) (rest : List Rep) (pc : Nat),
    (pc ≠ r.stop → wrapHead (r :: rest) pc = (pc, r :: rest, false)) ∧
    (pc = r.stop → 0 < r.left →
      wrapHead (r :: rest) pc = (r.first, { r with left := r.left - 1 } :: rest, true)) ∧
    (pc = r.stop → r.left = 0 → wrapHead (r :: rest) pc = wrapHead rest pc)

/-- R160: a register 16 + i turns with ARB: where ARB goes down by one, what stood in a[16 + i] stands in a[16 + (i + 1)
mod 16], and a0 to a15 stand. -/
def Sys2Proof.Claims.addressRotation : Prop :=
  ∀ (c : Core) (i : BitVec 4), (c.modArb true).ra (16 + (i + 1).toNat) = c.ra (16 + i.toNat) ∧
    (c.modArb true).ra i.toNat = c.ra i.toNat ∧ c.modArb false = c

/-- R158–R160: rep and repn, and the address registers that turn with their iterations. -/
def Obligations.RepsRunTheirBodies : Prop := Sys2Proof.Claims.repsOpenAndClose ∧ Sys2Proof.Claims.addressRotation

/-! ## Scalar access to memory -/

namespace Sys2Proof.Claims

/-- The window of a space that SQ reaches by an address of its own (R145). -/
def windowOf : Space → Nat
  | .sp => 2 ^ 21
  | .loft => 2 ^ 23
  | _ => 2 ^ 48

/-- n bytes at an address of a space may be reached by the executing word: aligned, in the window, mapped by pages that
are not executable (log 101). -/
def Reachable (s : State) (space : Space) (a n : Nat) : Prop :=
  a % n = 0 ∧ a + n ≤ windowOf space ∧
    (space = .hbm → ∃ ps, s.pagesOf s.id.dev (s.ctxNo s.id) a n = some ps ∧ ∀ p ∈ ps, p.exec = none)

/-- The effective address of a scalar access (R101). -/
def effAddr (s : State) (a : BitVec 6) (z : BitVec 2) (o : BitVec 7) : Nat :=
  (s.me.rs a.toNat + o.signExtend 64 * BitVec.ofNat 64 (2 ^ z.toNat)).toNat

/-- The loads of s registers: space, A, λ (R102). -/
def loadWordsS (g : BitVec 4) (d a : BitVec 6) (z : BitVec 2) (o : BitVec 7) : List (Instr × Space × Nat × Nat) :=
  [(.ldsSp g d a z o, .sp, 6, 12), (.ldsLoft g d a z o, .loft, 12, 24), (.ldsHbm g d a z o, .hbm, 300, 760)]

/-- The loads of p registers: space, A, λ (R102). -/
def loadWordsP (g p : BitVec 4) (a : BitVec 6) (z : BitVec 2) (o : BitVec 7) : List (Instr × Space × Nat × Nat) :=
  [(.ldpSp g p a z o, .sp, 6, 12), (.ldpHbm g p a z o, .hbm, 300, 760)]

end Sys2Proof.Claims

/-- R88, R101, R102, R103: a timed load's read stands in flight for t + A, its destination is leased until t + λ, and no
register or byte changes yet; pfh does nothing. -/
def Sys2Proof.Claims.timedLoadsIssue : Prop :=
  ∀ (g p : BitVec 4) (d a : BitVec 6) (z : BitVec 2) (o : BitVec 7) (s : State), s.cur.early = false →
    s.sFree a.toNat = none →
    (s.sFree d.toNat = none → ∀ x ∈ loadWordsS g d a z o, Reachable s x.2.1 (effAddr s a z o) (2 ^ z.toNat) →
      ∃ t, exec x.1 s = .next t ∧
        s.pends t (s.now + x.2.2.1) phRead (.accessPerform (.load s.cur.word x.2.1 (effAddr s a z o) (2 ^ z.toNat)
          (.sReg (sSlot s.me d.toNat)))) ∧
        t.heldTill 0 (sSlot t.me d.toNat) (s.now + x.2.2.2) ∧
        { t.me.still with leases := s.me.leases, accessesTill := s.me.accessesTill } = s.me.still ∧
        (∀ k, k ≠ s.id → t.coreAt k = s.coreAt k) ∧ s.sameBytes t) ∧
    (s.pFree p.toNat = none → ∀ x ∈ loadWordsP g p a z o, Reachable s x.2.1 (effAddr s a z o) (2 ^ z.toNat) →
      ∃ t, exec x.1 s = .next t ∧
        s.pends t (s.now + x.2.2.1) phRead (.accessPerform (.load s.cur.word x.2.1 (effAddr s a z o) (2 ^ z.toNat)
          (.pReg p.toNat))) ∧
        t.heldTill 1 p.toNat (s.now + x.2.2.2) ∧
        { t.me.still with leases := s.me.leases, accessesTill := s.me.accessesTill } = s.me.still ∧
        (∀ k, k ≠ s.id → t.coreAt k = s.coreAt k) ∧ s.sameBytes t) ∧
    exec (.pfh g a o) s = .next s

/-- R78, R101, R147, R148, R149, R175: a scalar access whose address is no multiple of its size raises misaligned access; one
beyond its window raises space-bound, which is the lower code; one to HBM that no page maps raises translation, and one to an
executable page protection (log 101). The record names the address and the space. -/
def Sys2Proof.Claims.scalarAccessFaults : Prop :=
  ∀ (g : BitVec 4) (d a : BitVec 6) (z : BitVec 2) (o : BitVec 7) (s : State), s.cur.early = false →
    s.sFree a.toNat = none → s.sFree d.toNat = none →
    (effAddr s a z o % 2 ^ z.toNat = 0 → effAddr s a z o + 2 ^ z.toNat ≤ 2 ^ 48 →
      (s.pagesOf s.id.dev (s.ctxNo s.id) (effAddr s a z o) (2 ^ z.toNat) = none →
        exec (.ldsHbm g d a z o) s = .next (s.fault 0x12 (addrDetail .hbm (effAddr s a z o)))) ∧
      ∀ ps, s.pagesOf s.id.dev (s.ctxNo s.id) (effAddr s a z o) (2 ^ z.toNat) = some ps → (∃ p ∈ ps, p.exec ≠ none) →
        exec (.ldsHbm g d a z o) s = .next (s.fault 0x13 (addrDetail .hbm (effAddr s a z o)))) ∧
    ∀ x ∈ loadWordsS g d a z o ++ [(.wrsSp g d a z o, .sp, 6, 0)],
      (windowOf x.2.1 < effAddr s a z o + 2 ^ z.toNat →
        exec x.1 s = .next (s.fault 0x10 (addrDetail x.2.1 (effAddr s a z o)))) ∧
      (effAddr s a z o + 2 ^ z.toNat ≤ windowOf x.2.1 → effAddr s a z o % 2 ^ z.toNat ≠ 0 →
        exec x.1 s = .next (s.fault 0x11 (addrDetail x.2.1 (effAddr s a z o))))

/-- R101, R102, R225: the read of a load performs at its tick: the little-endian value of its bytes stands in flight for
the end of the tick before ρ, as an s register's value or as whether it is not zero; poison and watchpoints apart, nothing
else changes. -/
def Sys2Proof.Claims.loadPerforms : Prop :=
  ∀ (w : WordRef) (space : Space) (ea size : Nat) (s : State), s.mine w = true → space ∈ [Space.sp, .loft, .hbm] →
    s.poisonChk w.id (s.ctxW w) space ea size = none → s.watchChk w space ea size false = none →
    (∀ k, ∃ t, exec (.accessPerform (.load w space ea size (.sReg k))) s = .next t ∧ t.cores = s.cores ∧ t.devs = s.devs ∧
      s.pends t (s.now + (match space with | .sp => 5 | .loft => 11 | _ => 459)) phResult
        (.leasedResult w (.sReg k (BitVec.ofNat 64 (leNat (s.readSpace w.id (s.ctxW w) space ea size)))))) ∧
    ∀ i, ∃ t, exec (.accessPerform (.load w space ea size (.pReg i))) s = .next t ∧ t.cores = s.cores ∧ t.devs = s.devs ∧
      s.pends t (s.now + (match space with | .sp => 5 | .loft => 11 | _ => 459)) phResult
        (.leasedResult w (.pReg i (leNat (s.readSpace w.id (s.ctxW w) space ea size) != 0)))

/-- R78, R88, R101–R103, R147–R149, R175, R225: scalar loads issue, fault and perform. -/
def Obligations.ScalarLoads : Prop := Sys2Proof.Claims.timedLoadsIssue ∧ Sys2Proof.Claims.scalarAccessFaults ∧ Sys2Proof.Claims.loadPerforms

/-- R101, R102, R225, R226: wrs.sp puts the low bytes of s[sd] in flight for t + 6 and changes no byte yet; at that tick
the write takes its place among the writes of the tick; and when a write of bytes at an address performs, exactly those
bytes of that space of the core of its word change. The address is the one wrs.sp computes. -/
def Obligations.TimedStoreWritesItsBytes : Prop :=
  (∀ (g : BitVec 4) (d a : BitVec 6) (z : BitVec 2) (o : BitVec 7) (s : State), s.cur.early = false →
    s.sFree a.toNat = none → s.sFree d.toNat = none → Reachable s .sp (effAddr s a z o) (2 ^ z.toNat) →
    ∃ t, exec (.wrsSp g d a z o) s = .next t ∧ s.sameBytes t ∧
      s.pends t (s.now + 6) phRead (.accessPerform (.store s.cur.word .sp (effAddr s a z o)
        (leBytes (2 ^ z.toNat) (s.me.rs d.toNat).toNat) [])) ∧
      { t.me with accessesTill := s.me.accessesTill } = s.me) ∧
  (∀ (w : WordRef) (space : Space) (a : Nat) (bs : List Byte) (p : List Nat) (s : State), s.mine w = true →
    s.watchChk w space a bs.length true = none →
    ∃ t, exec (.accessPerform (.store w space a bs p)) s = .next t ∧ t.cores = s.cores ∧ t.devs = s.devs ∧
      t.agenda = insertPend ⟨s.now, phWrite, writeKey w, 0, 0, s.seq, s.id,
        .accessPerform (.copyWrite w space a bs p)⟩ s.agenda) ∧
  ∀ (w : WordRef) (a : Nat) (bs : List Byte) (p : List Nat) (s : State), s.mine w = true → s.memWf →
    (∃ t, exec (.accessPerform (.copyWrite w .sp a bs p)) s = .next t ∧
      (∀ (i : Nat) (h : i < bs.length), readByte (t.coreAt w.id).sp (a + i) = bs[i]) ∧
      (∀ x, x < a ∨ a + bs.length ≤ x → readByte (t.coreAt w.id).sp x = readByte (s.coreAt w.id).sp x) ∧
      { t.coreAt w.id with sp := (s.coreAt w.id).sp, spPoison := (s.coreAt w.id).spPoison } = s.coreAt w.id ∧
      (∀ k, k ≠ w.id → t.coreAt k = s.coreAt k) ∧ { t with cores := s.cores } = s) ∧
    ∃ t, exec (.accessPerform (.copyWrite w .loft a bs p)) s = .next t ∧
      (∀ (i : Nat) (h : i < bs.length), readByte (t.coreAt w.id).loft (a + i) = bs[i]) ∧
      (∀ x, x < a ∨ a + bs.length ≤ x → readByte (t.coreAt w.id).loft x = readByte (s.coreAt w.id).loft x) ∧
      { t.coreAt w.id with loft := (s.coreAt w.id).loft, loftPoison := (s.coreAt w.id).loftPoison } = s.coreAt w.id ∧
      (∀ k, k ≠ w.id → t.coreAt k = s.coreAt k) ∧ { t with cores := s.cores } = s

/-- R100, R102, R148, R271: lds.peer leases s[sd] until t + 760 + 2H and sends a request for its bytes to the core with
its number on the member that the address names (log 32); lds.host and wrs.host let SQ wait for the host. -/
def Obligations.PeerAndHostAccessIssue : Prop :=
  ∀ (g : BitVec 4) (d a : BitVec 6) (z : BitVec 2) (o : BitVec 7) (s : State), s.cur.early = false →
    s.sFree a.toNat = none → s.sFree d.toNat = none → effAddr s a z o % 2 ^ z.toNat = 0 →
    (effAddr s a z o / 2 ^ 56 % 256 ≠ s.me.member →
      effAddr s a z o / 2 ^ 56 % 256 < (s.runOf s.id).members.length →
      effAddr s a z o % 2 ^ 56 + 2 ^ z.toNat ≤ 2 ^ 48 →
      ∃ t m, exec (.ldsPeer g d a z o) s = .next t ∧
        (s.runOf s.id).members[effAddr s a z o / 2 ^ 56 % 256]? = some m ∧
        t.heldTill 0 (sSlot t.me d.toNat) (s.now + 760 + 2 * s.latency s.id.dev m.1) ∧
        (∃ p ∈ t.agenda, (∃ hops dev l, p.act = .flitArrival dev l (.enter s.cur.word s.id.dev hops
          (.peerRequest (.load ⟨m.1, m.2, s.id.core⟩ (effAddr s a z o % 2 ^ 56) (2 ^ z.toNat)
            (.sReg (sSlot s.me d.toNat)) (s.latency s.id.dev m.1)))))) ∧
        { t.me.still with leases := s.me.leases, accessesTill := s.me.accessesTill } = s.me.still ∧ s.sameBytes t) ∧
    (s.cur.word.wp = true → effAddr s a z o + 2 ^ z.toNat ≤ (s.ctxOf s.id).hostWin.toNat →
      (∃ t, exec (.ldsHost g d a z o) s = .next t ∧
        t.me.wait = .host s.cur.word (effAddr s a z o) (2 ^ z.toNat) (some (.sReg (sSlot s.me d.toNat))) 0 s.now ∧
        { t.me with wait := s.me.wait } = s.me ∧ s.onlyMe t ∧ s.sameBytes t) ∧
      ∃ t, exec (.wrsHost g d a z o) s = .next t ∧
        t.me.wait = .host s.cur.word (effAddr s a z o) (2 ^ z.toNat) none (s.me.rs d.toNat) s.now ∧
        { t.me with wait := s.me.wait } = s.me ∧ s.onlyMe t ∧ s.sameBytes t)

/-- R77, R88, R104, R107, R70: a result performs at its tick on the core that still runs its word's itinerary: an s slot,
a predicate, a handle quarter or a token is written, and nothing else. That a result changes nothing once another itinerary
has taken the core, or none has it, is the model's reading (logs 65, 72, 75). -/
def Obligations.ResultsPerform : Prop :=
  ∀ (w : WordRef) (s : State),
    (s.mine w = false → ∀ r, exec (.leasedResult w r) s = .next s) ∧
    (s.mine w = true →
      (∀ (i : BitVec 6) (v : Reg), ∃ t, exec (.leasedResult w (.sReg (sSlot (s.coreAt w.id) i.toNat) v)) s = .next t ∧
        (∀ k : BitVec 6, (t.coreAt w.id).rs k.toNat = if k = i ∧ i ≠ 0 then v else (s.coreAt w.id).rs k.toNat) ∧
        { t.coreAt w.id with s := (s.coreAt w.id).s } = s.coreAt w.id ∧
        (∀ k, k ≠ w.id → t.coreAt k = s.coreAt k) ∧ { t with cores := s.cores } = s) ∧
      (∀ (i : BitVec 4) (v : Bool), ∃ t, exec (.leasedResult w (.pReg i.toNat v)) s = .next t ∧
        (∀ k : BitVec 4, (t.coreAt w.id).rp k.toNat = if k = i ∧ i ≠ 0 then v else (s.coreAt w.id).rp k.toNat) ∧
        { t.coreAt w.id with p := (s.coreAt w.id).p } = s.coreAt w.id ∧
        (∀ k, k ≠ w.id → t.coreAt k = s.coreAt k) ∧ { t with cores := s.cores } = s) ∧
      (∀ (h : BitVec 5) (q : BitVec 2) (v : Reg), ∃ t, exec (.leasedResult w (.hReg h.toNat q.toNat v)) s = .next t ∧
        (∀ j : BitVec 8, ((t.coreAt w.id).rh h.toNat).getLsbD j.toNat =
          if 64 * q.toNat ≤ j.toNat ∧ j.toNat < 64 * q.toNat + 64 then v.getLsbD (j.toNat - 64 * q.toNat)
          else ((s.coreAt w.id).rh h.toNat).getLsbD j.toNat) ∧
        (∀ k : BitVec 5, k ≠ h → (t.coreAt w.id).rh k.toNat = (s.coreAt w.id).rh k.toNat) ∧
        { t.coreAt w.id with h := (s.coreAt w.id).h } = s.coreAt w.id ∧
        (∀ k, k ≠ w.id → t.coreAt k = s.coreAt k) ∧ { t with cores := s.cores } = s) ∧
      ∀ (k : BitVec 6) (st ph : Bool), ∃ t, exec (.leasedResult w (.token k.toNat st ph)) s = .next t ∧
        (∀ j : BitVec 6, (t.coreAt w.id).tkState.getLsbD j.toNat =
            (if j = k then st else (s.coreAt w.id).tkState.getLsbD j.toNat) ∧
          (t.coreAt w.id).tkPhase.getLsbD j.toNat = if j = k then ph else (s.coreAt w.id).tkPhase.getLsbD j.toNat) ∧
        { t.coreAt w.id with tkState := (s.coreAt w.id).tkState, tkPhase := (s.coreAt w.id).tkPhase } = s.coreAt w.id ∧
        (∀ k, k ≠ w.id → t.coreAt k = s.coreAt k) ∧ { t with cores := s.cores } = s)

/-! ## System words -/

/-- R100, R102, R118: the words that only waypoint code defines raise the waypoint-only fault in timed code, whatever
their operands (log 40). -/
def Sys2Proof.Claims.waypointOnlyWordsFaultInTimedCode : Prop :=
  ∀ (g : BitVec 4) (d a : BitVec 6) (z w : BitVec 2) (o : BitVec 7) (h : BitVec 5) (x : BitVec 15) (s : State),
    s.cur.early = false → s.cur.word.wp = false →
    ∀ i ∈ [Instr.ldsHost g d a z o, .wrsHost g d a z o, .hbind g h a, .hunbind g h, .evrdRead g d w, .evrdRemove g d,
        .evrdCount g d, .evwait g, .eret g, .fuserd g d x, .keywipe g, .dbgopen g, .measure g a x],
      exec i s = .next (s.fault 0x54 0)

/-- 32 bytes of HBM that s[a] addresses may be read by measure: a free register, an aligned address in the window, pages
that are mapped and not executable, no poison as the count before left the bytes (R118, R225; log 128). -/
def Sys2Proof.Claims.MeasureReads (s : State) (a : BitVec 6) : Prop :=
  s.sFree a.toNat = none ∧ Sys2Proof.Claims.Reachable s .hbm (s.me.rs a.toNat).toNat 32 ∧
    (s.asLeft s.id.dev).poisonChk s.id (s.ctxNo s.id) .hbm (s.me.rs a.toNat).toNat 32 = none

/-- R78, R111, R118: a control index, fuserd, keywipe, dbgopen and measure raise the privilege fault at program level and
change nothing else, where a measure fails no check of a lower code, its bytes being read at its issue (log 128). -/
def Sys2Proof.Claims.privilegedWordsFaultAtProgramLevel : Prop :=
  ∀ (g : BitVec 4) (d a : BitVec 6) (x : BitVec 15) (s : State), s.cur.early = false →
    (s.ctxOf s.id).control = false → s.sFree a.toNat = none → s.sFree d.toNat = none →
    (0x4000 ≤ x.toNat → exec (.csrr g d x) s = .next (s.fault 0x55 0) ∧ exec (.csrw g a x) s = .next (s.fault 0x55 0)) ∧
    (s.cur.word.wp = true → exec (.fuserd g d x) s = .next (s.fault 0x55 0) ∧
      exec (.keywipe g) s = .next (s.fault 0x55 0) ∧ exec (.dbgopen g) s = .next (s.fault 0x55 0) ∧
      (MeasureReads s a → exec (.measure g a x) s = .next (s.fault 0x55 0)))

/-- R78, R100, R111, R118: words that waypoint code or control level guards. -/
def Obligations.ModesGuardWords : Prop := Sys2Proof.Claims.waypointOnlyWordsFaultInTimedCode ∧ Sys2Proof.Claims.privilegedWordsFaultAtProgramLevel

/-- R118, R225, R328: at control level fuserd reads a fuse word; keywipe erases the tenant keys; dbgopen opens the port,
moves PRODUCTION to DEBUG-UNLOCKED and extends register 15 where a verified token and a keywipe since stand, and raises the
security fault where not; measure extends a measurement register with 32 bytes. Register 15 is extended with an image of the
lifecycle state entered that the model leaves free (log 35; that it is the state entered, log 127), its bytes in little-endian
order (log 69); that measure reads its bytes at the count of its issue is the model's choice (log 128), and they are as the
count before left them. -/
def Obligations.PrivilegedWordsComplete : Prop :=
  ∀ (g : BitVec 4) (d a : BitVec 6) (x : BitVec 15) (s : State), s.cur.early = false → s.cur.word.wp = true →
    (s.ctxOf s.id).control = true →
    (s.sFree d.toNat = none → ∃ t, exec (.fuserd g d x) s = .next t ∧
      s.wroteS t d (look 0 x.toNat (s.dev s.id.dev).fuses)) ∧
    (∃ t, exec (.keywipe g) s = .next t ∧ s.onlyDev t s.id.dev ∧ t.dev s.id.dev =
      { s.dev s.id.dev with tenantKeys := [], wipedSince := (s.dev s.id.dev).tokenOk }) ∧
    ((s.dev s.id.dev).tokenOk = true → (s.dev s.id.dev).wipedSince = true →
      ∃ t, exec (.dbgopen g) s = .next t ∧ s.onlyDev t s.id.dev ∧ (t.dev s.id.dev).debugOpen = true ∧
        ((s.dev s.id.dev).life = 1 → (t.dev s.id.dev).life = 2 ∧ (t.dev s.id.dev).tokenOk = false ∧
          (t.dev s.id.dev).wipedSince = false) ∧
        ((s.dev s.id.dev).life ≠ 1 → (t.dev s.id.dev).life = (s.dev s.id.dev).life ∧
          (t.dev s.id.dev).tokenOk = true ∧ (t.dev s.id.dev).wipedSince = true) ∧
        vget 0 (t.dev s.id.dev).measurements 15 = extended (vget 0 (s.dev s.id.dev).measurements 15)
          (leBytes 32 (Config.lifecycleImage (t.dev s.id.dev).life.toNat).toNat) ∧
        (∀ k, k ≠ 15 → vget 0 (t.dev s.id.dev).measurements k = vget 0 (s.dev s.id.dev).measurements k) ∧
        { t.dev s.id.dev with debugOpen := (s.dev s.id.dev).debugOpen, life := (s.dev s.id.dev).life, measurements := (s.dev s.id.dev).measurements,
                              tokenOk := true, wipedSince := true } = s.dev s.id.dev) ∧
    ((s.dev s.id.dev).tokenOk = false ∨ (s.dev s.id.dev).wipedSince = false →
      exec (.dbgopen g) s = .next (s.fault 0x56 0)) ∧
    (x.toNat < 16 → MeasureReads s a →
      s.watchChk s.cur.word .hbm (s.me.rs a.toNat).toNat 32 false = none →
      ∃ t, exec (.measure g a x) s = .next t ∧ s.onlyDev t s.id.dev ∧
        (∀ k < 16, vget 0 (t.dev s.id.dev).measurements k =
          if k = x.toNat then extended (vget 0 (s.dev s.id.dev).measurements k)
            ((s.asLeft s.id.dev).readHbm s.id.dev (s.ctxNo s.id) (s.me.rs a.toNat).toNat 32)
          else vget 0 (s.dev s.id.dev).measurements k) ∧
        { t.dev s.id.dev with measurements := (s.dev s.id.dev).measurements } = s.dev s.id.dev)

/-- R78, R104–R107: hset puts the write of a quarter in flight for its own tick; hget reads a quarter; a quarter above 3, a
bound handle written by hset, a bound handle bound again and an unbound one unbound raise handle fault, where no check of a
lower code fails. The record's DETAIL is the base address that the handle gives (log 100). -/
def Sys2Proof.Claims.handleWords : Prop :=
  ∀ (g : BitVec 4) (h : BitVec 5) (d a b : BitVec 6) (s : State), s.cur.early = false → s.sFree a.toNat = none →
    s.sFree b.toNat = none → s.sFree d.toNat = none →
    (s.me.isBound h.toNat = false → (s.me.rs a.toNat).toNat ≤ 3 → ∃ t, exec (.hset g h a b) s = .next t ∧
      s.pends t s.now phResult (.leasedResult s.cur.word (.hReg h.toNat (s.me.rs a.toNat).toNat (s.me.rs b.toNat))) ∧
      t.cores = s.cores ∧ s.sameBytes t) ∧
    (s.me.isBound h.toNat = true ∨ 3 < (s.me.rs a.toNat).toNat →
      exec (.hset g h a b) s = .next (s.fault 0x14 (handleDetail (s.me.rh h.toNat)))) ∧
    ((s.me.rs b.toNat).toNat ≤ 3 → ∃ t v, exec (.hget g h d b) s = .next t ∧ s.wroteS t d v ∧
      ∀ j : BitVec 6, v.getLsbD j.toNat = (s.me.rh h.toNat).getLsbD (64 * (s.me.rs b.toNat).toNat + j.toNat)) ∧
    (3 < (s.me.rs b.toNat).toNat → exec (.hget g h d b) s = .next (s.fault 0x14 (handleDetail (s.me.rh h.toNat)))) ∧
    (s.cur.word.wp = true →
      (s.me.isBound h.toNat = true →
        (∃ c f, c ≤ 0x14 ∧ exec (.hbind g h a) s = .next (s.fault c f)) ∧
        ((∀ x, some x ∈ s.imageChks a ++ s.bindChks (s.bindImage h a) → 0x14 ≤ x.1) →
          exec (.hbind g h a) s = .next (s.fault 0x14 (handleDetail (s.me.rh h.toNat))))) ∧
      (s.me.isBound h.toNat = false → exec (.hunbind g h) s = .next (s.fault 0x14 (handleDetail (s.me.rh h.toNat)))))

/-- How many ranges of a handle a page meets: its extent, and a tensor's log area. -/
def Sys2Proof.Claims.meets (x : BitVec 256) (p : Page) : Nat :=
  ((handleRanges x).filter (fun r => decide (p.va < r.1 + r.2.1) && decide (r.1 < p.va + p.size))).length

/-- R105, R106: hbind of an unbound handle whose image passes its checks writes the image, binds it and pins its pages, once
for each of its ranges that a page meets; that it reads the image and the header at the count of its issue, as the count
before left them (R225), is the model's choice (log 125); hunbind of a bound one clears the binding, keeps the image and
releases its pins, those of a handle that commands in flight have captured when the last of them retires; every other handle
stands. -/
def Sys2Proof.Claims.handlesBindAndUnbind : Prop :=
  ∀ (g : BitVec 4) (h : BitVec 5) (a : BitVec 6) (s : State), s.cur.early = false → s.cur.word.wp = true →
    (s.me.isBound h.toNat = false → firstFault (s.imageChks a) = none →
      firstFault (s.bindChks (s.bindImage h a)) = none →
      ∃ t, exec (.hbind g h a) s = .next t ∧ t.me.rh h.toNat = s.bindImage h a ∧ t.me.isBound h.toNat = true ∧
        (∀ k : BitVec 5, k ≠ h → t.me.rh k.toNat = s.me.rh k.toNat ∧ t.me.isBound k.toNat = s.me.isBound k.toNat) ∧
        (t.ctxOf s.id).pages = (s.ctxOf s.id).pages.map (fun p =>
          { p with inFlight := p.inFlight + meets (s.bindImage h a) p }) ∧
        { t.me with h := s.me.h, bound := s.me.bound } = s.me ∧ s.sameBytes t) ∧
    (s.me.isBound h.toNat = true →
      ∃ t, exec (.hunbind g h) s = .next t ∧ t.me.isBound h.toNat = false ∧
        (∀ k : BitVec 5, k ≠ h → t.me.isBound k.toNat = s.me.isBound k.toNat) ∧
        ((∀ x ∈ s.me.captures, x.1 = h.toNat → x.2 ≤ s.now) →
          (t.ctxOf s.id).pages = (s.ctxOf s.id).pages.map (fun p =>
            { p with inFlight := p.inFlight - meets (s.me.rh h.toNat) p })) ∧
        (∀ last, s.now < last → (h.toNat, last) ∈ s.me.captures →
          (∀ x ∈ s.me.captures, x.1 = h.toNat → x.2 ≤ last) →
          (t.ctxOf s.id).pages = (s.ctxOf s.id).pages.map (fun p =>
            { p with inFlight := p.inFlight - meets (s.me.rh h.toNat) p,
                     lapsing := List.replicate (meets (s.me.rh h.toNat) p) last ++ p.lapsing })) ∧
        (∀ k, t.me.rh k = s.me.rh k) ∧ s.sameBytes t)

/-- R78, R104–R107: the handle words (logs 100, 125). -/
def Obligations.Handles : Prop := Sys2Proof.Claims.handleWords ∧ Sys2Proof.Claims.handlesBindAndUnbind

/-- R109: evrd 0 to 3 reads a word of the head record and 0 of an empty queue, 4 removes the head and counts what is
left, 5 counts; only records of earlier counts are seen. -/
def Sys2Proof.Claims.evrdReads : Prop :=
  ∀ (g : BitVec 4) (d : BitVec 6) (w : BitVec 2) (s : State), s.cur.early = false → s.cur.word.wp = true →
    s.sFree d.toNat = none →
    (∃ t v, exec (.evrdRead g d w) s = .next t ∧ s.wroteS t d v ∧ (s.records = [] → v = 0) ∧
      ∀ (r : BitVec 256) (rest : List (BitVec 256)), s.records = r :: rest →
        ∀ j : BitVec 6, v.getLsbD j.toNat = r.getLsbD (64 * w.toNat + j.toNat)) ∧
    (∃ t, exec (.evrdCount g d) s = .next t ∧ s.wroteS t d (BitVec.ofNat 64 s.records.length)) ∧
    (∃ t, exec (.evrdRemove g d) s = .next t ∧
      (t.ctxOf s.id).evq = (if s.records = [] then (s.ctxOf s.id).evq else (s.ctxOf s.id).evq.tail) ∧
      (∀ k : BitVec 6, t.me.rs k.toNat =
        if k = d ∧ d ≠ 0 then BitVec.ofNat 64 (s.records.length - 1) else s.me.rs k.toNat) ∧
      { t.me with s := s.me.s } = s.me ∧ s.sameBytes t)

/-- R110: evwait completes at once where a record is queued and else waits, standing at a yield point; a record that is
posted ends the wait of every core of its context on the device; a core that is saved in its wait issues the evwait again. -/
def Obligations.EventWaits : Prop :=
  (∀ (g : BitVec 4) (s : State), s.cur.early = false → s.cur.word.wp = true →
    ((s.ctxOf s.id).evq ≠ [] → exec (.evwait g) s = .next s) ∧
    ((s.ctxOf s.id).evq = [] → ∃ t, exec (.evwait g) s = .next t ∧ t.me.wait = .event ∧
      { t.me with wait := s.me.wait } = s.me ∧ s.pends t s.now phLast (.leasedResult s.cur.word .yieldPoint) ∧
      s.sameBytes t)) ∧
  (∀ (d c cls source seq : Nat) (payload : BitVec 128) (id : CoreId) (s : State), id.dev = d → s.ctxNo id = c →
    (s.ctx d c).evq.length < 256 → (s.coreAt id).wait = .event →
    ((s.post d c payload cls source seq).coreAt id).wait = .none ∧
    s.now < (s.coreAt id).base + ((s.post d c payload cls source seq).coreAt id).sq.ready) ∧
  ∀ (c : Core) (now : Nat), c.wait = .event →
    (c.paused now).wait = .none ∧ (c.paused now).sq.pc = c.sq.pc - 4

/-- R113: ccnt reads the counts at its own tick, and a csrr of LEG_TICK at that tick reads one less, where the tick is not the
first of the leg. -/
def Sys2Proof.Claims.countsRead : Prop :=
  ∀ (g : BitVec 4) (d : BitVec 6) (s : State), s.cur.early = false → s.sFree d.toNat = none →
    (∃ t, exec (.ccntCount g d) s = .next t ∧ s.wroteS t d (BitVec.ofNat 64 s.now)) ∧
    (∃ t, exec (.ccntLegTick g d) s = .next t ∧ s.wroteS t d (BitVec.ofNat 64 s.tick)) ∧
    (0 < s.tick → ∃ t, exec (.csrr g d 0x000) s = .next t ∧ s.wroteS t d (BitVec.ofNat 64 (s.tick - 1)))

/-- R111, R112, R272: csrr reads a CSR of the program view as of the tick before, lstat a link, a route, the lead or the epoch
as of the tick before; at leg tick 0, which has no tick of the leg before it, LEG_TICK reads 2^64 − 1 by the model's choice
(log 137). A csrr of the flags of VX or MX also notes which flags it has read of pushes that are due at its count, since a
lost one takes them back (R79, R203; log 129). -/
def Sys2Proof.Claims.statusReads : Prop :=
  ∀ (g : BitVec 4) (d : BitVec 6) (x : BitVec 15) (s : State), s.cur.early = false → s.sFree d.toNat = none →
    (∃ t, exec (.csrr g d 0x000) s = .next t ∧ s.wroteS t d (BitVec.ofNat 64 s.tick - 1)) ∧
    (∃ t, exec (.csrr g d 0x002) s = .next t ∧ s.wroteS t d (BitVec.ofNat 64 s.id.core)) ∧
    (∀ y ∈ [(0x010#15, s.me.flagsVx, Engine.vx), (0x011#15, s.me.flagsMx, Engine.mx)],
      ∃ t, exec (.csrr g d y.1) s = .next t ∧
        (∀ k : BitVec 6, t.me.rs k.toNat = if k = d ∧ d ≠ 0 then y.2.1.setWidth 64 else s.me.rs k.toNat) ∧
        t.me.flagRead = some (sSlot s.me d.toNat, s.me.flagsDue s.now y.2.2) ∧
        { t.me with s := s.me.s, flagRead := s.me.flagRead } = s.me ∧ s.onlyMe t ∧ s.sameBytes t) ∧
    (∃ t, exec (.csrr g d 0x020) s = .next t ∧ s.wroteS t d s.me.tvec) ∧
    (∃ t, exec (.csrr g d 0x021) s = .next t ∧ s.wroteS t d s.me.tepc) ∧
    (∃ t, exec (.csrr g d 0x022) s = .next t ∧ s.wroteS t d (s.me.tcause.setWidth 64)) ∧
    (∃ t, exec (.csrr g d 0x030) s = .next t ∧ s.wroteS t d (BitVec.ofNat 64 (s.pastCtx s.id).evq.length)) ∧
    (∃ t, exec (.csrr g d 0x031) s = .next t ∧ s.wroteS t d ((s.pastCtx s.id).evqLost.setWidth 64)) ∧
    (x.toNat < 0x4000 → x ≠ 0x010 → x ≠ 0x011 → ∃ t v, exec (.csrr g d x) s = .next t ∧ s.wroteS t d v) ∧
    (x.toNat < 18 → ∃ t, exec (.lstat g d x) s = .next t ∧ s.wroteS t d
      (linkWord (vget Link.reset (s.pastDev s.id.dev).links x.toNat))) ∧
    (∀ (m : Nat) (y : Nat × Nat), x.toNat = 0x100 + m → m < 256 → m ≠ s.me.member →
      (s.runOf s.id).members[m]? = some y → ∀ r, s.route? s.id.dev y.1 = some r →
      ∃ t, exec (.lstat g d x) s = .next t ∧
        s.wroteS t d (1#1 ++ 0#43 ++ BitVec.ofNat 4 r.hops.length ++ BitVec.ofNat 16 r.h)) ∧
    (∃ t, exec (.lstat g d 0x200) s = .next t ∧ s.wroteS t d (BitVec.ofInt 64 (s.pastDev s.id.dev).lead)) ∧
    ∃ t, exec (.lstat g d 0x201) s = .next t ∧ s.wroteS t d (BitVec.ofNat 64 s.past.epoch)

/-- R111, R112, R327: csrw clears flags where it writes 1, sets TVEC with its low bits zero and TEPC, and puts the write of
a shared register in flight for its own tick; at control level csrr reads and csrw writes the control view. -/
def Sys2Proof.Claims.csrWrites : Prop :=
  ∀ (g : BitVec 4) (d a : BitVec 6) (x : BitVec 15) (s : State), s.cur.early = false → s.sFree a.toNat = none →
    (∃ t, exec (.csrw g a 0x010) s = .next t ∧ (∀ i < 5, t.me.flagsVx.getLsbD i =
        (s.me.flagsVx.getLsbD i && !(s.me.rs a.toNat).getLsbD i)) ∧
      { t.me with flagsVx := s.me.flagsVx } = s.me ∧ s.onlyMe t ∧ s.sameBytes t) ∧
    (∃ t, exec (.csrw g a 0x020) s = .next t ∧ (∀ i : Nat, t.me.tvec.getLsbD i =
        (decide (2 ≤ i) && (s.me.rs a.toNat).getLsbD i)) ∧
      { t.me with tvec := s.me.tvec } = s.me ∧ s.onlyMe t ∧ s.sameBytes t) ∧
    (∃ t, exec (.csrw g a 0x021) s = .next t ∧ t.me.tepc = s.me.rs a.toNat ∧
      { t.me with tepc := s.me.tepc } = s.me ∧ s.onlyMe t ∧ s.sameBytes t) ∧
    (x = 0x031 ∨ x = 0x032 ∨ (0x4000 ≤ x.toNat ∧ (s.ctxOf s.id).control = true) →
      ∃ t, exec (.csrw g a x) s = .next t ∧ t.cores = s.cores ∧ s.sameBytes t ∧
        s.pends t s.now phResult (.leasedResult s.cur.word (.csr x.toNat (s.me.rs a.toNat)))) ∧
    (s.sFree d.toNat = none → 0x4000 ≤ x.toNat → (s.ctxOf s.id).control = true →
      ∃ t, exec (.csrr g d x) s = .next t ∧
        (∀ k : BitVec 6, t.me.rs k.toNat =
          if k = d ∧ d ≠ 0 then s.controlRead s.id x.toNat else s.me.rs k.toNat) ∧
        { t.me with s := s.me.s } = s.me ∧ s.sameBytes t)

/-- R111, R112, R327: the write of a shared register performs behind the words of its count: EVQ_LOST loses the bits written
as 1 and EVQ_MSIX takes bit 0, of the core's context and device, and an index of the control view is written as the host
writes it. -/
def Sys2Proof.Claims.sharedWritesPerform : Prop :=
  ∀ (w : WordRef) (v : Reg) (x : Nat) (s : State), s.mine w = true →
    let c := s.ctxNo w.id
    let there := s.ctx w.id.dev c
    (c < 16 →
      (∃ t, exec (.leasedResult w (.csr 0x031 v)) s = .next t ∧ s.onlyDev t w.id.dev ∧
        (∀ i < 32, (t.ctx w.id.dev c).evqLost.getLsbD i = (there.evqLost.getLsbD i && !v.getLsbD i)) ∧
        { t.ctx w.id.dev c with evqLost := there.evqLost } = there ∧
        ∀ k, k ≠ c → t.ctx w.id.dev k = s.ctx w.id.dev k) ∧
      ∃ t, exec (.leasedResult w (.csr 0x032 v)) s = .next t ∧ s.onlyDev t w.id.dev ∧
        (t.ctx w.id.dev c).evqMsix = v.getLsbD 0 ∧ { t.ctx w.id.dev c with evqMsix := there.evqMsix } = there ∧
        ∀ k, k ≠ c → t.ctx w.id.dev k = s.ctx w.id.dev k) ∧
    (0x4000 ≤ x → exec (.leasedResult w (.csr x v)) s = .next (s.controlWrite w.id.dev w.id x v))

/-- R4, R308, R318, R322, R327: what a write of the control view does, by a core at control level or by the host through BAR0,
of the core that CORESEL selects (log 132). A register of the device or of the selected context takes the value; an expert
field does so under expert enable, and without it the refusal is noted in XEN; RELEASE, STOPC and PARTSET act. No other
register of a core changes than its watchpoints, and no byte of a memory. -/
def Sys2Proof.Claims.controlWrites : Prop :=
  ∀ (d : Nat) (id : CoreId) (x : Nat) (v : Reg) (s : State),
    let cx := (s.dev d).ctxsel.toNat % 16
    let wrote (i : Nat) : State := s.controlWrite d id i v
    exec (.registerWrite d (.bar0 0 x) v) s = .next (s.controlWrite d (s.selectedCore d) x v) ∧
    (∀ y ∈ [(0x4008, Device.ctxsel, v &&& 0xF), (0x4009, Device.coresel, v &&& 0xFFFF), (0x4020, Device.rasmark, v),
        (0x4031, Device.spbase, v), (0x4033, Device.sprd, v &&& 0xFFFFFFFF), (0x4035, Device.spmark, v)],
      y.2.1 ((wrote y.1).dev d) = y.2.2) ∧
    (∀ y ∈ [(0x4010, Ctx.hostWin, v), (0x4011, Ctx.poolWin, v), (0x4012, Ctx.dlHost, v), (0x4013, Ctx.dlPool, v),
        (0x4014, Ctx.saveArea, v), (0x4015, Ctx.faultArea, v &&& ~~~0x3F#64), (0x4016, Ctx.brken, v &&& 3)], y.2.1 ((wrote y.1).ctx d cx) = y.2.2) ∧
    (∀ y ∈ [(0x4021, Device.rasleak, if 10 ≤ v.toNat ∧ v.toNat ≤ 40 then v else (s.dev d).rasleak),
        (0x4022, Device.raswt, v &&& 0xFFFFFF), (0x4070, Device.pwrcap, v)],
      ((s.dev d).xen.getLsbD 0 = true → y.2.1 ((wrote y.1).dev d) = y.2.2 ∧ ((wrote y.1).dev d).xen = (s.dev d).xen) ∧
      ((s.dev d).xen.getLsbD 0 = false → y.2.1 ((wrote y.1).dev d) = y.2.1 (s.dev d) ∧
        ∀ b, ((wrote y.1).dev d).xen.getLsbD b = ((s.dev d).xen.getLsbD b || b == 1))) ∧
    (((wrote 0x4002).dev d).xen.getLsbD 0 = v.getLsbD 0 ∧
      ((wrote 0x4002).dev d).xen.getLsbD 1 = ((s.dev d).xen.getLsbD 1 && !v.getLsbD 1)) ∧
    (∀ i < 4,
      (vget ⟨0, 0⟩ ((wrote (0x4040 + 2 * i)).coreAt id).watches i).base = v &&& ~~~0x3F#64 ∧
      (vget ⟨0, 0⟩ ((wrote (0x4041 + 2 * i)).coreAt id).watches i).ctl = v &&& 0xFFFFFF1F) ∧
    (exec (.registerWrite d (.bar0 0 0x4017) v) s = exec (.release d cx v) s ∧
      exec (.registerWrite d (.bar0 0 0x4050) v) s = exec (.stopc d cx v) s ∧
      exec (.registerWrite d (.bar0 0 0x4004) v) s = exec (.partset d v) s) ∧
    (x ≠ 0x4004 → x ≠ 0x4017 → x ≠ 0x4050 → s.sameBytes (wrote x) ∧ (wrote x).runs = s.runs ∧
      (∀ k, { (wrote x).coreAt k with watches := (s.coreAt k).watches, counters := (s.coreAt k).counters,
                                      shadows := (s.coreAt k).shadows, before := (s.coreAt k).before } = s.coreAt k ∧
        (wrote x).countersOf k = s.countersOf k ∧ (wrote x).shadowsOf k = s.shadowsOf k) ∧
      ∀ k, k ≠ id → (wrote x).coreAt k = s.coreAt k)

/-- R116, R117: kopen opens a kraal of its region, with its handler and count, where the core is in the herd and no kraal
is open; kclose closes the kraal of its region; the other cases raise herd and region faults. -/
def Obligations.KraalWords : Prop :=
  ∀ (g : BitVec 4) (hd : BitVec 8) (rg : BitVec 13) (o : BitVec 21) (s : State), s.cur.early = false →
    (s.id ∈ s.herd s.id hd.toNat → s.me.kraal = none →
      ∃ t, exec (.kopen g hd rg o) s = .next t ∧ t.me.kraal = some ⟨rg, hd.toNat, s.target o.toInt, s.now⟩ ∧
        { t.me with kraal := s.me.kraal } = s.me ∧ s.onlyMe t ∧ s.sameBytes t) ∧
    (s.id ∉ s.herd s.id hd.toNat → exec (.kopen g hd rg o) s = .next (s.fault 0x57 0)) ∧
    (s.id ∈ s.herd s.id hd.toNat → s.me.kraal ≠ none → exec (.kopen g hd rg o) s = .next (s.fault 0x59 0)) ∧
    (∀ k, s.me.kraal = some k →
      (k.region = rg → ∃ t, exec (.kclose g rg) s = .next t ∧ t.me.kraal = none ∧
        { t.me with kraal := s.me.kraal } = s.me ∧ s.onlyMe t ∧ s.sameBytes t) ∧
      (k.region ≠ rg → exec (.kclose g rg) s = .next (s.fault 0x59 0))) ∧
    (s.me.kraal = none → exec (.kclose g rg) s = .next (s.fault 0x59 0))

/-- R233–R235, R262, R320, R321, R325: xfence adds a fence, and a fifth one waits in waypoint code, with the count of its
issue (the model's choice, log 153), and faults in timed code; pace takes a pulse off a lead of half a pulse or more; brk
faults where its context enables it and else does nothing; trig arms the trigger at a count far enough on; spoor 1 sets the
class mask, spoor 0 leaves the program's state. That the mask is the issuing core's alone is the model's reading (log 58). -/
def Obligations.FencePaceAndDebugWords : Prop :=
  ∀ (g : BitVec 4) (ca cb : BitVec 3) (sc : BitVec 5) (c : BitVec 8) (a : BitVec 6) (s : State), s.cur.early = false →
    (s.id ∈ ((s.runOf s.id).scopes[sc.toNat]?).getD [] → s.me.fences.length < 4 →
      ∃ t, exec (.xfence g ca cb sc) s = .next t ∧ s.sameBytes t ∧
        t.me.fences = s.me.fences ++ [⟨s.me.fenceNo, ca, cb, sc.toNat, s.now, none⟩] ∧
        { t.me with fences := s.me.fences, fenceNo := s.me.fenceNo } = s.me) ∧
    (s.id ∈ ((s.runOf s.id).scopes[sc.toNat]?).getD [] → 4 ≤ s.me.fences.length →
      (s.cur.word.wp = false → exec (.xfence g ca cb sc) s = .next (s.fault 0x16 0)) ∧
      (s.cur.word.wp = true → ∃ t, exec (.xfence g ca cb sc) s = .next t ∧
        t.me.wait = .fence ⟨0, ca, cb, sc.toNat, s.now, none⟩ ∧ { t.me with wait := s.me.wait } = s.me ∧ s.onlyMe t)) ∧
    (s.id ∉ ((s.runOf s.id).scopes[sc.toNat]?).getD [] → s.me.fences.length < 4 →
      exec (.xfence g ca cb sc) s = .next (s.fault 0x58 0)) ∧
    (∃ t, exec (.pace g) s = .next t ∧ t.cores = s.cores ∧ (∀ k, k ≠ s.id.dev → t.dev k = s.dev k) ∧ s.sameBytes t ∧
      (t.dev s.id.dev).paceFrom = s.now ∧
      (8 ≤ (s.pastDev s.id.dev).lead → s.now + 1 ∉ (s.dev s.id.dev).pacePulses →
        (t.dev s.id.dev).lead = (s.dev s.id.dev).lead - 16 ∧
        (t.dev s.id.dev).pacePulses = (s.dev s.id.dev).pacePulses ++ [s.now + 1]) ∧
      ((s.pastDev s.id.dev).lead < 8 ∨ s.now + 1 ∈ (s.dev s.id.dev).pacePulses →
        (t.dev s.id.dev).lead = (s.dev s.id.dev).lead ∧ (t.dev s.id.dev).pacePulses = (s.dev s.id.dev).pacePulses)) ∧
    ((s.ctxOf s.id).brken.getLsbD 0 = false → exec (.brk g c) s = .next s) ∧
    ((s.ctxOf s.id).brken.getLsbD 0 = true → exec (.brk g c) s = .next (s.fault 0x5B (c.setWidth 256))) ∧
    (s.sFree a.toNat = none →
      (s.trigger = none → s.now + 8192 ≤ (s.me.rs a.toNat).toNat →
        ∃ t, exec (.trig g a) s = .next t ∧ t.trigger = some (s.me.rs a.toNat).toNat ∧ t.cores = s.cores ∧
          t.devs = s.devs ∧ s.pends t (s.me.rs a.toNat).toNat phControl (.triggerLatch (s.me.rs a.toNat).toNat)) ∧
      ((s.me.rs a.toNat).toNat < s.now + 8192 ∨ s.trigger ≠ none → exec (.trig g a) s = .next (s.fault 0x5D 0)) ∧
      (s.me.rs a.toNat >>> 6 = 0 → ∃ t, exec (.spoorClassMask g a) s = .next t ∧
        t.me.spoorMask.setWidth 64 = s.me.rs a.toNat ∧ { t.me with spoorMask := s.me.spoorMask } = s.me ∧ s.onlyMe t) ∧
      (s.me.rs a.toNat >>> 6 ≠ 0 → exec (.spoorClassMask g a) s = .next (s.fault 0x5D 0)) ∧
      ∃ t, exec (.spoorMarker g a) s = .next t ∧ (∀ id, (t.coreAt id).still = (s.coreAt id).still) ∧
        (∀ id x, readByte (t.coreAt id).sp x = readByte (s.coreAt id).sp x))

/-! ## The vector engine -/

namespace Sys2Proof.Claims

/-- What a word of VX starts from (R180, R183). -/
def vxAt (s : State) (k : VForm) (dst : VDst) (second : Option Nat) (a b : BitVec 6) (t : VTail) : VStart :=
  s.me.vxStart s.now k dst second a.toNat b.toNat t

/-- A word of VX fails no check (R77, R127, R183–R185, R310). -/
def VxClear (s : State) (k : VForm) (dst : VDst) (second : Option Nat) (a b : BitVec 6) (t : VTail) (tag : Tag)
    (own : List Check) : Prop :=
  s.cur.early = false ∧ s.cur.word.eng = .vx ∧
  (∀ c ∈ (vxAt s k dst second a b t).chks ++ vxLeaseChks s.me s.now dst second t.m.toNat ++ own, c = none) ∧
  guardChk k.guarded t.m.toNat (vxAt s k dst second a b t).env.old tag = none ∧
  guardChk second.isSome t.m.toNat (vxAt s k dst second a b t).env.oldC .f32 = none ∧
  ∀ i ∈ vxWrites dst second, (i % 6, s.now + (vxAt s k dst second a b t).e + k.lam - 1) ∉ s.me.bankWrites

/-- A word of VX has issued (R144, R182–R185): VX holds its stream for O and K = O + e; its result r stands in flight for
ρ − 1, or its first NaN for ρ, with ρ = t + e + λ; what it writes is leased until ρ; the tile registers, the lane masks,
the flags and every byte stand. -/
def VxIssued (s t : State) (k : VForm) (dst : VDst) (second : Option Nat) (a b : BitVec 6) (tl : VTail) (tag : Tag)
    (r : VRes) : Prop :=
  let rho := s.now + (vxAt s k dst second a b tl).e + k.lam
  t.me.vx = { s.me.vx with occ := k.occ, hold := k.occ + (vxAt s k dst second a b tl).e } ∧
  (r.nan = none → s.pends t (rho - 1) phResult (.leasedResult s.cur.word (.vx (vxWrite dst second tag r)))) ∧
  (∀ n, r.nan = some n →
    s.pends t rho phControl (.leasedResult s.cur.word (.fault 0x20 (BitVec.ofNat 256 (n.1 + n.2.1 * 2 ^ 32 + n.2.2 * 2 ^ 64))))) ∧
  (∀ i ∈ vxWrites dst second, t.heldTill 5 i rho) ∧ (∀ m, dst = .mask m → t.heldTill 6 m rho) ∧
  { t.me.still with q := s.me.q, latches := s.me.latches, bankWrites := s.me.bankWrites, leases := s.me.leases } = s.me.still ∧
  t.me.sq = s.me.sq ∧ t.me.ax = s.me.ax ∧ t.me.mx = s.me.mx ∧ (∀ id, id ≠ s.id → t.coreAt id = s.coreAt id) ∧
  t.devs = s.devs ∧ s.sameBytes t

/-- r holds f i in the lanes under the mask and the old element in the others; its flags are those of the lanes under the
mask, and its first NaN is the one with the lowest coordinates among them (R127, R142, R143). -/
def Lanewise (e : VEnv) (w : Nat) (tag : Tag) (f : Nat → Res) (r : VRes) : Prop :=
  r.image = ofElems w ((List.range (4096 / w)).map fun i =>
    if e.lanes.getLsbD i then (f i).bits else if e.old.tag = tag then (elems w e.old.data).getD i 0 else 0) ∧
  (∀ b, r.flags.getLsbD b = true ↔ ∃ i < 4096 / w, e.lanes.getLsbD i = true ∧ (f i).flags.getLsbD b = true) ∧
  (r.nan = none ↔ ∀ i < 4096 / w, e.lanes.getLsbD i = true → (f i).nan = false) ∧
  ∀ n, r.nan = some n → ∃ i < 4096 / w, e.lanes.getLsbD i = true ∧ (f i).nan = true ∧ n = coordsOf e.rl w 0 i ∧
    ∀ j < i, e.lanes.getLsbD j = true → (f j).nan = false

/-- Element i of an operand. -/
def lane (w : Nat) (x : Tile) (i : Nat) : Nat := (elems w x.data).getD i 0

/-- A source of a word has a format. -/
def hasTag (want : Tag) (x : Tile) : Check := if x.tag = want ∧ want ≠ .none then none else some (0x21, 0)

/-- The element-wise float words, whether they read vb and vc, and their exact results before rounding (R188). -/
def floatWords (g : BitVec 4) (f : BitVec 3) (d a b : BitVec 6) (t : Option VTail) :
    List (Instr × Bool × Bool × (RMode → Val → Val → Val → Val)) :=
  [(.vadd g f d a b t, true, false, fun r x y _ => addV r x y),
   (.vsub g f d a b t, true, false, fun r x y _ => addV r x (negV y)),
   (.vmul g f d a b t, true, false, fun _ x y _ => mulV x y),
   (.vfma g f d a b t, true, true, fun r x y z => addV r (mulV x y) z),
   (.vfms g f d a b t, true, true, fun r x y z => addV r (mulV x y) (negV z)),
   (.vfnma g f d a b t, true, true, fun r x y z => addV r (negV (mulV x y)) z),
   (.vmax g f d a b t, true, false, fun _ x y _ => maxV x y), (.vmin g f d a b t, true, false, fun _ x y _ => minV x y)]

/-- The arithmetic integer words, whether they read vc, and their exact results (R191). -/
def arithWords (g : BitVec 4) (f : BitVec 3) (d a b : BitVec 6) (t : Option VTail) :
    List (Instr × Bool × (Int → Int → Int → Int)) :=
  [(.viadd g f d a b t, false, fun x y _ => x + y), (.visub g f d a b t, false, fun x y _ => x - y),
   (.vimul g f d a b t, false, fun x y _ => x * y), (.vimac g f d a b t, true, fun x y z => x * y + z)]

/-- The integer words on n-bit patterns, and their results (R191): the format, n, the elements. -/
def bitWords (g : BitVec 4) (f : BitVec 3) (d a b : BitVec 6) (t : Option VTail) :
    List (Instr × (Tag → Nat → Nat → Nat → Nat)) :=
  [(.vand g f d a b t, fun _ _ x y => x &&& y), (.vor g f d a b t, fun _ _ x y => x ||| y),
   (.vxor g f d a b t, fun _ _ x y => x ^^^ y), (.vshl g f d a b t, fun _ n x u => if n ≤ u then 0 else x * 2 ^ u),
   (.vshr g f d a b t, fun _ n x u => if n ≤ u then 0 else x / 2 ^ u),
   (.vsra g f d a b t, fun k n x u => intBits n (intOf k x / 2 ^ min u n)),
   (.vimax g f d a b t, fun k _ x y => if intOf k x < intOf k y then y else x),
   (.vimin g f d a b t, fun k _ x y => if intOf k y < intOf k x then y else x)]

/-- The special-function words, their functions and latencies (R186, R195). -/
def specialWords (g : BitVec 4) (f : BitVec 3) (d a : BitVec 6) (t : Option VTail) : List (Instr × SpecialFn × Nat) :=
  [(.vexp2 g f d a t, .exp2, 14), (.vlog2 g f d a t, .log2, 14), (.vrcp g f d a t, .rcp, 14),
   (.vrsqrt g f d a t, .rsqrt, 14), (.vexp g f d a t, .exp, 18), (.vlog g f d a t, .log, 18),
   (.vtanh g f d a t, .tanh, 24), (.vsigm g f d a t, .sigm, 24)]

end Sys2Proof.Claims

/-- R127, R182–R188: an element-wise float word whose checks pass issues; each lane under the mask takes the rounded
exact result of its elements, and the others keep the old element. -/
def Obligations.VxFloatWords : Prop :=
  ∀ (g : BitVec 4) (f : BitVec 3) (d a b : BitVec 6) (t : Option VTail) (s : State),
    let tag := floatTag f.toNat
    let fm := (fmtOf tag).getD fF32
    let w := widthOf tag
    let tl := tailOr d t
    (∀ o ∈ floatWords g f d a b t,
      let k : VForm := { b := o.2.1, c := o.2.2.1 }
      let e := (vxAt s k (vdst d) none a b tl).env
      VxClear s k (vdst d) none a b tl tag ([hasTag tag e.a] ++ (if o.2.1 then [hasTag tag e.b] else []) ++
        (if o.2.2.1 then [hasTag tag e.c] else [])) →
      ∃ u r, exec o.1 s = .next u ∧ VxIssued s u k (vdst d) none a b tl tag r ∧
        Lanewise e w tag (fun i => roundVal fm (rmodeOf tl.rm) tl.nv (o.2.2.2 (rmodeOf tl.rm) (valOf fm (lane w e.a i))
          (valOf fm (lane w e.b i)) (valOf fm (lane w e.c i)))) r) ∧
    ∀ o ∈ [(Instr.vabs g f d a t, absV), (.vneg g f d a t, negV)],
      let e := (vxAt s {} (vdst d) none a 0 tl).env
      VxClear s {} (vdst d) none a 0 tl tag [hasTag tag e.a] →
      ∃ u r, exec o.1 s = .next u ∧ VxIssued s u {} (vdst d) none a 0 tl tag r ∧
        Lanewise e w tag (fun i => roundVal fm (rmodeOf tl.rm) tl.nv (o.2 (valOf fm (lane w e.a i)))) r

/-- R191, R127: the integer words: the exact result modulo 2^n, or clamped with its flag; the results on bit patterns. -/
def Sys2Proof.Claims.vxIntegerWords : Prop :=
  ∀ (g : BitVec 4) (f : BitVec 3) (d a b : BitVec 6) (t : Option VTail) (s : State),
    let tag := intTag f.toNat
    let w := widthOf tag
    let tl := tailOr d t
    (∀ o ∈ arithWords g f d a b t,
      let k : VForm := { b := true, c := o.2.1, lam := 5 }
      let e := (vxAt s k (vdst d) none a b tl).env
      VxClear s k (vdst d) none a b tl tag
        ([hasTag tag e.a, hasTag tag e.b] ++ (if o.2.1 then [hasTag tag e.c] else [])) →
      ∃ u r, exec o.1 s = .next u ∧ VxIssued s u k (vdst d) none a b tl tag r ∧
        Lanewise e w tag (fun i =>
          let v := o.2.2 (intOf tag (lane w e.a i)) (intOf tag (lane w e.b i)) (intOf tag (lane w e.c i))
          if tl.x.getLsbD 0 then ⟨intBits (8 * w) (max (intRange tag).1 (min (intRange tag).2 v)),
            if v < (intRange tag).1 ∨ (intRange tag).2 < v then flSaturate else 0, false⟩
          else ⟨intBits (8 * w) v, 0, false⟩) r) ∧
    (∀ o ∈ bitWords g f d a b t,
      let k : VForm := { b := true, lam := 5 }
      let e := (vxAt s k (vdst d) none a b tl).env
      VxClear s k (vdst d) none a b tl tag [hasTag tag e.a, hasTag tag e.b] →
      ∃ u r, exec o.1 s = .next u ∧ VxIssued s u k (vdst d) none a b tl tag r ∧
        Lanewise e w tag (fun i => ⟨o.2 tag (8 * w) (lane w e.a i) (lane w e.b i) % 2 ^ (8 * w), 0, false⟩) r) ∧
    (let k : VForm := { lam := 5 }
     let e := (vxAt s k (vdst d) none a 0 tl).env
     VxClear s k (vdst d) none a 0 tl tag [hasTag tag e.a] →
      ∃ u r, exec (.vnot g f d a t) s = .next u ∧ VxIssued s u k (vdst d) none a 0 tl tag r ∧
        Lanewise e w tag (fun i => ⟨2 ^ (8 * w) - 1 - lane w e.a i, 0, false⟩) r)

/-- R189, R192, R178: a compare writes its lane mask and no tile: a lane holds whether its condition holds of its
elements where the mask that guards it is true, and else false (λ = 5); no destination tag is checked. -/
def Sys2Proof.Claims.vxCompares : Prop :=
  ∀ (g : BitVec 4) (f dm : BitVec 3) (a b : BitVec 6) (t : VTail) (s : State),
    let k : VForm := { b := true, guarded := false, lam := 5 }
    let e := (vxAt s k (.mask dm.toNat) none a b t).env
    let holds (o : Option Ordering) : Bool := match t.x.toNat % 8 with
      | 0 => o == some .eq | 1 => o != some .eq | 2 => o == some .lt | 3 => o == some .lt || o == some .eq
      | 4 => o == some .gt | _ => o == some .gt || o == some .eq
    (VxClear s k (.mask dm.toNat) none a b t (intTag f.toNat) [hasTag (intTag f.toNat) e.a, hasTag (intTag f.toNat) e.b] →
      ∃ u r, exec (.vicmp g f dm a b t) s = .next u ∧ VxIssued s u k (.mask dm.toNat) none a b t (intTag f.toNat) r ∧
        r.nan = none ∧ r.flags = 0 ∧ ∀ i, r.lanes.getLsbD i = (decide (i < 4096 / widthOf (intTag f.toNat)) &&
          e.lanes.getLsbD i && holds (some (compare (intOf (intTag f.toNat) (lane (widthOf (intTag f.toNat)) e.a i))
            (intOf (intTag f.toNat) (lane (widthOf (intTag f.toNat)) e.b i)))))) ∧
    (VxClear s k (.mask dm.toNat) none a b t (floatTag f.toNat)
        [hasTag (floatTag f.toNat) e.a, hasTag (floatTag f.toNat) e.b] →
      ∃ u r, exec (.vcmp g f dm a b t) s = .next u ∧ VxIssued s u k (.mask dm.toNat) none a b t (floatTag f.toNat) r ∧
        r.nan = none ∧ ∀ i, r.lanes.getLsbD i = (decide (i < 4096 / widthOf (floatTag f.toNat)) && e.lanes.getLsbD i &&
          holds (cmpV (valOf ((fmtOf (floatTag f.toNat)).getD fF32) (lane (widthOf (floatTag f.toNat)) e.a i))
            (valOf ((fmtOf (floatTag f.toNat)).getD fF32) (lane (widthOf (floatTag f.toNat)) e.b i)))))

/-- R127, R189, R191, R192: integer words and compares. -/
def Obligations.VxIntegersAndCompares : Prop := Sys2Proof.Claims.vxIntegerWords ∧ Sys2Proof.Claims.vxCompares

/-- R190, R196–R198: moves, selections, broadcasts, permutes and transposes copy whole elements between places, set no
flag and raise no NaN; vpack brings the elements under the mask to the front and zero bits behind them. -/
def Obligations.VxMovesCopyElements : Prop :=
  ∀ (g : BitVec 4) (f : BitVec 3) (d a b : BitVec 6) (t : Option VTail) (s : State),
    let tl := tailOr d t
    let w := formWidth f tl.x
    let w2 := 4 / 2 ^ f.toNat
    let itag : Tag := if f = 0 then .i32 else .i16
    let e := (vxAt s {} (vdst d) none a 0 tl).env
    (VxClear s {} (vdst d) none a 0 tl e.a.tag [formChk f tl.x e.a] →
      ∃ u r, exec (.vmov g f d a t) s = .next u ∧ VxIssued s u {} (vdst d) none a 0 tl e.a.tag r ∧
        Lanewise e w e.a.tag (fun i => ⟨lane w e.a i, 0, false⟩) r) ∧
    (VxClear s {} (vdst d) none a 0 tl e.a.tag [formChk f tl.x e.a, shapeChk w e] →
      ∃ u r, exec (.vbcast g f d a t) s = .next u ∧ VxIssued s u {} (vdst d) none a 0 tl e.a.tag r ∧
        Lanewise e w e.a.tag (fun i => ⟨lane w e.a (if tl.x.getLsbD 4 then i % colsOf e.rl w
          else i / colsOf e.rl w * colsOf e.rl w), 0, false⟩) r) ∧
    (let k : VForm := { b := true, guarded := false }
     let e := (vxAt s k (vdst d) none a b tl).env
     VxClear s k (vdst d) none a b tl e.a.tag [formChk f tl.x e.a, formChk f tl.x e.b] →
      ∃ u r, exec (.vsel g f d a b t) s = .next u ∧ VxIssued s u k (vdst d) none a b tl e.a.tag r ∧
        r.image = ofElems w ((List.range (4096 / w)).map fun i =>
          if e.lanes.getLsbD i then lane w e.a i else lane w e.b i) ∧ r.flags = 0 ∧ r.nan = none) ∧
    (let k : VForm := { b := true, lam := 8 }
     let e := (vxAt s k (vdst d) none a b tl).env
     VxClear s k (vdst d) none a b tl e.a.tag [widthChk w2 e.a, hasTag itag e.b] →
      ∃ u r, exec (.vperm g f d a b t) s = .next u ∧ VxIssued s u k (vdst d) none a b tl e.a.tag r ∧
        Lanewise e w2 e.a.tag (fun i => ⟨if 0 ≤ intOf itag (lane w2 e.b i) then
          lane w2 e.a (intOf itag (lane w2 e.b i)).toNat else 0, 0, false⟩) r) ∧
    (let k : VForm := { lam := 8 }
     let e := (vxAt s k (vdst d) none a 0 tl).env
     VxClear s k (vdst d) none a 0 tl e.a.tag [widthChk w2 e.a, shapeChk w2 e] →
      ∃ u r, exec (.vtrans g f d a t) s = .next u ∧ VxIssued s u k (vdst d) none a 0 tl e.a.tag r ∧
        Lanewise e w2 e.a.tag (fun i => ⟨lane w2 e.a (i % (4096 / w2 / colsOf e.rl w2) * colsOf e.rl w2 +
          i / (4096 / w2 / colsOf e.rl w2)), 0, false⟩) r) ∧
    (let k : VForm := { guarded := false, lam := 8 }
     let e := (vxAt s k (vdst d) none a 0 tl).env
     VxClear s k (vdst d) none a 0 tl e.a.tag [widthChk w2 e.a] →
      ∃ u r, exec (.vpack g f d a t) s = .next u ∧ VxIssued s u k (vdst d) none a 0 tl e.a.tag r ∧
        r.image = ofElems w2 (((List.range (4096 / w2)).filter (fun i => e.lanes.getLsbD i)).map (lane w2 e.a)) ∧
        r.flags = 0 ∧ r.nan = none)

namespace Sys2Proof.Claims

/-- One level of the tree of R136: its pairs combined, and an odd last element as it is. -/
def treeLevel (f : Nat → Nat → Res) : List Nat → List Nat
  | x :: y :: rest => (f x y).bits :: treeLevel f rest
  | l => l

/-- The combines of a level. -/
def treeCombines (f : Nat → Nat → Res) : List Nat → List Res
  | x :: y :: rest => f x y :: treeCombines f rest
  | _ => []

/-- The tree of R136 over elements, from a level on: what is left, the flags of its combines, and the first level at which
a combine gives a NaN (R143). -/
inductive Tree (f : Nat → Nat → Res) : Nat → List Nat → Nat → BitVec 5 → Option Nat → Prop
  | leaf (level x : Nat) : Tree f level [x] x 0 none
  | node (level x : Nat) (l : List Nat) (fl : BitVec 5) (k : Option Nat) : 1 < l.length →
      Tree f (level + 1) (treeLevel f l) x fl k →
      Tree f level l x ((treeCombines f l).foldl (fun m r => m ||| r.flags) fl)
        (if (treeCombines f l).any (·.nan) then some level else k)

/-- r is the reduction of rows or columns (R136, R143, R194): each line's tree over its elements under the mask, rounded
with rm, in the first element of its row or column, and zero bits elsewhere. -/
def Reduced (e : VEnv) (w : Nat) (fm : Fmt) (rm : RMode) (nv byRow : Bool) (empty : Val) (op : RMode → Val → Val → Val)
    (r : VRes) : Prop :=
  let cols := colsOf e.rl w
  let rows := 4096 / w / cols
  let n := if byRow then rows else cols
  let line (i : Nat) : List Nat := (((List.range (if byRow then cols else rows)).map fun j =>
    if byRow then i * cols + j else j * cols + i).filter (fun p => e.lanes.getLsbD p)).map (lane w e.a)
  let comb (x y : Nat) : Res := roundVal fm rm nv (op rm (valOf fm x) (valOf fm y))
  ∃ (v : Nat → Nat) (fl : Nat → BitVec 5) (k : Nat → Option Nat),
    let place (i : Nat) : Nat × Nat × Nat := if byRow then ((k i).getD 0, i, 0) else ((k i).getD 0, 0, i)
    (∀ i < n, (line i = [] → v i = (roundVal fm rm nv empty).bits ∧ fl i = (roundVal fm rm nv empty).flags ∧ k i = none) ∧
      (line i ≠ [] → Tree comb 1 (line i) (v i) (fl i) (k i))) ∧
    r.image = ofElems w ((List.range (4096 / w)).map fun p =>
      if byRow then (if p % cols = 0 then v (p / cols) else 0) else if p < cols then v p else 0) ∧
    (∀ b, r.flags.getLsbD b = true ↔ ∃ i < n, (fl i).getLsbD b = true) ∧
    (r.nan = none ↔ ∀ i < n, isNaN (valOf fm (v i)) = false) ∧
    ∀ x, r.nan = some x → (∃ i < n, isNaN (valOf fm (v i)) = true ∧ x = place i) ∧
      ∀ i < n, isNaN (valOf fm (v i)) = true → coordLt (place i) x = false

/-- r is an element of format `src` in format `dst` (R131, R193): equal formats keep a number; a float takes one rounding of
the exact value; an integer the rounded value, or the end of its range that is nearest. -/
def Converts (src dst : Tag) (rm : RMode) (nv : Bool) (x : Nat) (r : Res) : Prop :=
  (∀ d, fmtOf dst = some d → r =
    if src = dst ∧ isNaN (valOf d x) = false then ⟨x, 0, false⟩ else roundVal d rm nv (elemVal src x)) ∧
  (fmtOf dst = none → r.nan = false ∧
    match elemVal src x with
    | .nan _ => r.bits = 0 ∧ r.flags = flInvalid
    | .inf neg => r.bits = intBits (8 * widthOf dst) (if neg then (intRange dst).1 else (intRange dst).2) ∧
        r.flags = flSaturate
    | .fin neg m ex =>
      let q := roundTo rm neg m ex 0
      let i : Int := if neg then -(q.1 : Int) else q.1
      r.bits = intBits (8 * widthOf dst) (max (intRange dst).1 (min (intRange dst).2 i)) ∧
      r.flags = if i < (intRange dst).1 ∨ (intRange dst).2 < i then flSaturate else if q.2 then 0 else flInexact)

/-- An image in which the n elements from lo on hold f under their mask bits, and the others keep the old element where its
tag is the result's and are else zero (R193). -/
def Partly (lanes : Lanes) (old : Tile) (w : Nat) (tag : Tag) (lo n : Nat) (f : Nat → Res) (image : Image) : Prop :=
  image = ofElems w ((List.range (4096 / w)).map fun i =>
    if lo ≤ i ∧ i < lo + n ∧ lanes.getLsbD i then (f (i - lo)).bits else if old.tag = tag then lane w old i else 0)

/-- The elements of a part that a mask lets through, with a property. -/
def someOf (lanes : Lanes) (lo n : Nat) (p : Nat → Prop) : Prop := ∃ i < n, lanes.getLsbD (lo + i) = true ∧ p i

/-- r holds the conversion of part ps of the source in part pd of the destination (R143, R193). -/
def Converted (e : VEnv) (src dst : Tag) (rm : RMode) (nv : Bool) (ps pd : Nat) (r : VRes) : Prop :=
  let n := 4096 / max (widthOf src) (widthOf dst)
  ∃ c : Nat → Res, (∀ i < n, Converts src dst rm nv (lane (widthOf src) e.a (ps * n + i)) (c i)) ∧
    Partly e.lanes e.old (widthOf dst) dst (pd * n) n c r.image ∧
    (∀ b, r.flags.getLsbD b = true ↔ someOf e.lanes (pd * n) n fun i => (c i).flags.getLsbD b = true) ∧
    (r.nan = none ↔ ¬ someOf e.lanes (pd * n) n fun i => (c i).nan = true) ∧
    ∀ x, r.nan = some x → someOf e.lanes (pd * n) n fun i => (c i).nan = true ∧
      x = coordsOf e.rl (widthOf dst) 0 (pd * n + i) ∧ ∀ j < i, e.lanes.getLsbD (pd * n + j) = true → (c j).nan = false

/-- r holds the conversion with error feedback (R132, R143, R193): q in part pd of vd, and the rounding of x − q, an
inexact one alone with a flag, in vc. That a first NaN is the one of the lowest coordinates over both is the model's choice
(log 140). -/
def FedBack (e : VEnv) (src dst : Tag) (rm : RMode) (nv : Bool) (ps pd : Nat) (r : VRes) : Prop :=
  let lo := pd * 1024
  ∃ q g : Nat → Res, (∀ i < 1024, Converts src dst rm nv (lane (widthOf src) e.a (ps * 1024 + i)) (q i) ∧
      g i = rne fF32 (addV .rne (elemVal src (lane (widthOf src) e.a (ps * 1024 + i))) (negV (elemVal dst (q i).bits)))) ∧
    Partly e.lanes e.old (widthOf dst) dst lo 1024 q r.image ∧
    (∃ y, r.second = some y ∧ Partly (e.lanes >>> lo) e.oldC 4 .f32 0 1024 g y) ∧
    (∀ b, r.flags.getLsbD b = true ↔ someOf e.lanes lo 1024 fun i =>
      (q i).flags.getLsbD b = true ∨ (b = 0 ∧ (g i).flags.getLsbD 0 = true)) ∧
    (r.nan = none ↔ ¬ someOf e.lanes lo 1024 fun i => (q i).nan = true ∨ (g i).nan = true) ∧
    ∀ x, r.nan = some x →
      (someOf e.lanes lo 1024 fun i => ((q i).nan = true ∧ x = coordsOf e.rl (widthOf dst) 0 (lo + i)) ∨
        ((g i).nan = true ∧ x = coordsOf e.rl 4 0 i)) ∧
      ∀ i < 1024, e.lanes.getLsbD (lo + i) = true →
        ((q i).nan = true → coordLt (coordsOf e.rl (widthOf dst) 0 (lo + i)) x = false) ∧
        ((g i).nan = true → coordLt (coordsOf e.rl 4 0 i) x = false)

/-- r holds the batched products of R199: each element under the mask is its old value with the products of its row and its
column added one by one, each time rounded, as many as its matrix has. -/
def BatchProducts (e : VEnv) (w side : Nat) (fm : Fmt) (rm : RMode) (r : VRes) : Prop :=
  let area := side * side
  let terms (p : Nat) : Nat := lane 1 e.c (p / area)
  ∃ z : Nat → Nat → Nat,
    let step (p k : Nat) : Res := roundVal fm rm false (addV rm (valOf fm (z p k))
      (mulV (valOf fm (lane w e.a (p / area * area + p % area / side * side + k)))
        (valOf fm (lane w e.b (p / area * area + k * side + p % side)))))
    (∀ p < 4096 / w, z p 0 = lane w e.old p ∧ ∀ k < terms p, z p (k + 1) = (step p k).bits) ∧
    r.image = ofElems w ((List.range (4096 / w)).map fun p =>
      if e.lanes.getLsbD p then z p (terms p) else lane w e.old p) ∧
    (∀ b, r.flags.getLsbD b = true ↔ ∃ p < 4096 / w, e.lanes.getLsbD p = true ∧ ∃ k < terms p,
      (step p k).flags.getLsbD b = true) ∧
    (r.nan = none ↔ ∀ p < 4096 / w, e.lanes.getLsbD p = true → ∀ k < terms p, (step p k).nan = false) ∧
    ∀ x, r.nan = some x →
      (∃ p < 4096 / w, e.lanes.getLsbD p = true ∧ ∃ k < terms p, (step p k).nan = true ∧ x = coordsOf e.rl w k p) ∧
      ∀ p < 4096 / w, e.lanes.getLsbD p = true → ∀ k < terms p, (step p k).nan = true →
        coordLt (coordsOf e.rl w k p) x = false

end Sys2Proof.Claims

/-- R131, R132, R136, R143, R186, R193–R195, R199, R200: reductions, conversions, special functions and batched products whose
checks pass issue with their latencies and occupancies and put the result of R194, R193, R195 or R199 in flight (of a
reduction under a VSHAPE of at most 12, of a conversion of a part that there is); vkac puts a mismatch in flight where its
sum differs from the constant, and else nothing. -/
def Obligations.VxOtherWordsComplete : Prop :=
  ∀ (g : BitVec 4) (f : BitVec 3) (d a b : BitVec 6) (t : Option VTail) (u : VTail) (cst : BitVec 32) (s : State),
    let tag := floatTag f.toNat
    let w := widthOf tag
    let tl := tailOr d t
    (let k : VForm := { guarded := false, lam := 10 }
     let e := (vxAt s k (vdst d) none a 0 tl).env
     VxClear s k (vdst d) none a 0 tl tag [hasTag tag e.a, shapeChk w e] →
      ∀ o ∈ [(Instr.vrsum g f d a t, true, true), (.vcsum g f d a t, false, true), (.vrmax g f d a t, true, false),
          (.vcmax g f d a t, false, false)],
        ∃ v r, exec o.1 s = .next v ∧ VxIssued s v k (vdst d) none a 0 tl tag r ∧
          (e.rl ≤ 12 → Reduced e w ((fmtOf tag).getD fF32) (rmodeOf tl.rm) tl.nv o.2.1
            (if o.2.2 then .fin false 0 0 else .inf true) (fun rm x y => if o.2.2 then addV rm x y else maxV x y) r)) ∧
    (∀ o ∈ specialWords g f d a t,
      let k : VForm := { lam := o.2.2, occ := 8 }
      let e := (vxAt s k (vdst d) none a 0 tl).env
      VxClear s k (vdst d) none a 0 tl tag [hasTag tag e.a] →
        ∃ v r, exec o.1 s = .next v ∧ VxIssued s v k (vdst d) none a 0 tl tag r ∧
          Lanewise e w tag (fun i => special o.2.1 ((fmtOf tag).getD fF32) (lane w e.a i)) r) ∧
    (VxClear s {} (vdst d) none a 0 u (cvtDst u.x)
        [hasTag (cvtSrc f u.x) (vxAt s {} (vdst d) none a 0 u).env.a] →
      ∃ v r, exec (.vcvt g f d a b u) s = .next v ∧ VxIssued s v {} (vdst d) none a 0 u (cvtDst u.x) r ∧
        (let n := 4096 / max (widthOf (cvtSrc f u.x)) (widthOf (cvtDst u.x))
         cvtDst u.x ≠ .none → b.toNat / 8 < 4096 / widthOf (cvtSrc f u.x) / n → b.toNat % 8 < 4096 / widthOf (cvtDst u.x) / n →
          Converted (vxAt s {} (vdst d) none a 0 u).env (cvtSrc f u.x) (cvtDst u.x) (rmodeOf u.rm) u.nv (b.toNat / 8)
            (b.toNat % 8) r)) ∧
    (VxClear s {} (vdst d) (some u.vc.toNat) a 0 u (cvtDst u.x)
        [hasTag (cvtSrc f u.x) (vxAt s {} (vdst d) (some u.vc.toNat) a 0 u).env.a] →
      ∃ v r, exec (.vcvtef g f d a b u) s = .next v ∧
        VxIssued s v {} (vdst d) (some u.vc.toNat) a 0 u (cvtDst u.x) r ∧ r.second.isSome = true ∧
        (cvtDst u.x ≠ .none → b.toNat / 8 < 4096 / widthOf (cvtSrc f u.x) / 1024 →
          b.toNat % 8 < 4096 / widthOf (cvtDst u.x) / 1024 →
          FedBack (vxAt s {} (vdst d) (some u.vc.toNat) a 0 u).env (cvtSrc f u.x) (cvtDst u.x) (rmodeOf u.rm) u.nv
            (b.toNat / 8) (b.toNat % 8) r)) ∧
    (let side := 2 ^ (u.x.toNat % 8)
     let k : VForm := { b := true, c := true, acc := true, lam := 4 * side + 4, occ := 4 * side }
     let e := (vxAt s k (vdst d) none a b u).env
     VxClear s k (vdst d) none a b u e.a.tag [hasTag .u8 e.c] →
     ((f = 0 ∧ e.a.tag = .f32) ∨ (f ≠ 0 ∧ (e.a.tag = .f16 ∨ e.a.tag = .bf16))) → e.b.tag = e.a.tag → e.old.tag = e.a.tag →
     (∀ i < 4096 / (4 / 2 ^ f.toNat) / (side * side), lane 1 e.c i ≤ side) →
      ∃ v r, exec (.vbmm g f d a b u) s = .next v ∧ VxIssued s v k (vdst d) none a b u e.a.tag r ∧
        BatchProducts e (4 / 2 ^ f.toNat) side ((fmtOf e.a.tag).getD fF32) (rmodeOf u.rm) r) ∧
    (s.cur.early = false → s.cur.word.eng = .vx → a.toNat < 48 → leaseOn s.me s.now 5 a.toNat = none →
      (vget tileZero s.me.t a.toNat).poison = false → (vget tileZero s.me.t a.toNat).tag ≠ .none →
      ∃ v, exec (.vkac g a cst) s = .next v ∧ v.me.vx = { s.me.vx with occ := 4, hold := 4 } ∧
        { v.me.still with leases := s.me.leases } = s.me.still ∧ s.sameBytes v ∧
        (knownAnswer (vget tileZero s.me.t a.toNat).data = cst → v.agenda = s.agenda) ∧
        (knownAnswer (vget tileZero s.me.t a.toNat).data ≠ cst → s.pends v (s.now + 6) phControl
          (.leasedResult s.cur.word (.mismatch (knownAnswer (vget tileZero s.me.t a.toNat).data) cst)))) ∧
    (s.cur.early = false → ∀ r, exec (.vshape g r) s = .next (s.modMe fun c => { c with rl := r }))

/-- R144, R165, R178, R185, R310: when a result of VX performs, its tiles (with their poison where they keep part of a
register), its mask (never m0) and its flags are written to its core, and its queue entry takes its place behind the entries
that leave before it, ready at the next tick; every other tile register and mask stands. An entry keeps which flags its word
alone has set, since a lost one takes them back (R79, R133; log 129). A first NaN that performs raises the NaN fault of its
word. -/
def Obligations.VxResultsPerform : Prop :=
  ∀ (w : WordRef) (x : Tile) (i m o : Nat) (v : Lanes) (fl : BitVec 5) (s : State), s.mine w = true → w.eng = .vx →
    (i < 48 → ∃ t, exec (.leasedResult w (.vx { tiles := [(i, x)], mask := none, push := none, flags := fl })) s = .next t ∧
      (∀ j < 48, vget tileZero (t.coreAt w.id).t j = if j = i then
        { x with poison := x.poison && (vget tileZero (s.coreAt w.id).t i).poison } else vget tileZero (s.coreAt w.id).t j) ∧
      (t.coreAt w.id).flagsVx = (s.coreAt w.id).flagsVx ||| fl ∧
      { t.coreAt w.id with t := (s.coreAt w.id).t, flagsVx := (s.coreAt w.id).flagsVx } = (s.coreAt w.id).shareFlags .vx fl ∧
      { t with cores := s.cores } = s ∧ ∀ k, k ≠ w.id → t.coreAt k = s.coreAt k) ∧
    (m < 8 → ∃ t, exec (.leasedResult w (.vx { tiles := [], mask := some (m, v), push := none, flags := fl })) s = .next t ∧
      (∀ j < 8, (t.coreAt w.id).rm j = if j = m ∧ m ≠ 0 then v else (s.coreAt w.id).rm j) ∧
      { t.coreAt w.id with m := (s.coreAt w.id).m, flagsVx := (s.coreAt w.id).flagsVx } = (s.coreAt w.id).shareFlags .vx fl ∧
      { t with cores := s.cores } = s) ∧
    (o < 4 → ∃ t pre post, exec (.leasedResult w (.vx { tiles := [], mask := none, push := some (o, x), flags := fl })) s = .next t ∧
      let new : QEnt := ⟨x, s.now + 1, w, (s.coreAt w.id).newFlags .vx fl, []⟩
      vget [] ((s.coreAt w.id).shareFlags .vx fl).o o = pre ++ post ∧
      vget [] (t.coreAt w.id).o o = pre ++ new :: post ∧
      (∀ e ∈ pre, entryBefore new e = false) ∧ (∀ e ∈ post.head?, entryBefore new e = true) ∧
      (∀ k, k ≠ o → vget [] (t.coreAt w.id).o k = vget [] ((s.coreAt w.id).shareFlags .vx fl).o k) ∧
      (t.coreAt w.id).flagsVx = (s.coreAt w.id).flagsVx ||| fl ∧
      { t.coreAt w.id with o := (s.coreAt w.id).o, flagsVx := (s.coreAt w.id).flagsVx } = s.coreAt w.id ∧
      s.pends t (s.now + 1) phLand (.queueEntryReady w true o (s.now + 1))) ∧
    ∀ d, exec (.leasedResult w (.fault 0x20 d)) s = .next (s.raise .vx w true 0x20 d)

/-! ## The matrix engine -/

namespace Sys2Proof.Claims

/-- The product words and what they ask of the array (R217, R218, R222). -/
def productWords (g : BitVec 4) (c : Bool) (f : BitVec 3) (o : Bool) (m : BitVec 2) (q : BitVec 3) (u : Bool)
    (r : BitVec 4) (n : BitVec 2) (v : Bool) : List (Instr × ProductForm) :=
  [(.mfwd g c f o m q u r, ⟨true, f, o, smode m.toNat, q.toNat,
      if 2 ≤ m.toNat then [(0, 0), (1, 1)] else [(u.toNat, c.toNat)], r.toNat, none⟩),
   (.mbwd g c f o q u r, ⟨false, f, o, .dense, q.toNat, [(u.toNat, c.toNat)], r.toNat, none⟩),
   (.mkfwd g f o v q u n, ⟨true, f, o, if v then .s24 else .dense, q.toNat, [(u.toNat, 0)], 0, some n.toNat⟩),
   (.mkbwd g f o q u n, ⟨false, f, o, .dense, q.toNat, [(u.toNat, 0)], 0, some n.toNat⟩)]

/-- V of the table of R210. -/
def vectors (k : ProductForm) : Nat :=
  let sparse := k.mode = .s24 ∨ k.mode = .cb24
  if k.fmt.toNat < 4 then (if k.col then 64 else if sparse then 16 else 32)
  else (if k.col then 32 else if sparse then 8 else 16)

/-- c of the table of R210. -/
def cyc (k : ProductForm) : Nat := if k.fmt.toNat < 4 then 1 else 4

/-- The tag of the activations of a product format (R45). -/
def actTag (f : BitVec 3) : Tag := match f.toNat with
  | 0 | 2 => .e4m3 | 1 | 3 => .e5m2 | 4 => .bf16 | _ => .f16

/-- The format of the weights of a product format (R45). -/
def wgtFmt (f : BitVec 3) : WFmt := match f.toNat with
  | 0 | 1 => .e4m3 | 2 | 3 => .e5m2 | 4 => .bf16 | _ => .f16

/-- The conditions under which a product word runs (R208, R209, R210, R217, R218, R310). -/
def ProductClear (s : State) (k : ProductForm) : Prop :=
  s.cur.early = false ∧ s.me.arrayFree ≤ s.now ∧ (k.col = true → k.mode = .dense ∨ k.mode = .cb) ∧
  (∃ e rest, vget [] s.me.q k.q = e :: rest ∧ e.ready ≤ s.now ∧ e.tile.poison = false ∧ e.tile.tag = actTag k.fmt ∧
    (k.col = true → ∃ e' rest', rest = e' :: rest' ∧ e'.ready ≤ s.now ∧ e'.tile.poison = false ∧
      e'.tile.tag = actTag k.fmt)) ∧
  ∀ x ∈ k.srcs, leaseOn s.me s.now 8 x.1 = none ∧ (s.me.wb x.1).mode = k.mode ∧ (s.me.wb x.1).fmt = wgtFmt k.fmt ∧
    (s.me.wb x.1).poison = false ∧ (k.mode = .cb ∨ k.mode = .cb24 → (s.me.wb x.1).live.toNat ≤ 64)

end Sys2Proof.Claims

/-- R209, R210, R217, R218, R222: a product word whose checks pass holds the array for c × V ticks, pops one operand entry
(two in column order), puts V rows from row g × V on in flight for the end of the tick before its ρ, and leases its
buffers until t + O + 127 and, but for the known-answer forms, the accumulator rows until ρ. Nothing else changes yet. -/
def Obligations.MxProductsIssue : Prop :=
  ∀ (g : BitVec 4) (c : Bool) (f : BitVec 3) (o : Bool) (m : BitVec 2) (q : BitVec 3) (u : Bool) (r : BitVec 4)
    (n : BitVec 2) (v : Bool) (s : State), ∀ x ∈ productWords g c f o m q u r n v, f.toNat < 6 → ProductClear s x.2 →
    let occ := cyc x.2 * vectors x.2
    let rho := s.now + (if x.2.known.isSome then 273 else 271) + cyc x.2 * (vectors x.2 - 1)
    ∃ t job, exec x.1 s = .next t ∧ t.me.arrayFree = s.now + occ ∧
      s.pends t (rho - 1) phResult (.leasedResult s.cur.word (.product job)) ∧
      job.vecs.length = vectors x.2 ∧ job.row0 = x.2.group * vectors x.2 ∧ job.asc = s.me.asc ∧ job.known = x.2.known ∧
      job.fwd = x.2.fwd ∧ job.srcs = x.2.srcs.map (fun y => (s.me.wb y.1, y.2)) ∧
      vget [] t.me.q x.2.q = (vget [] s.me.q x.2.q).drop (if x.2.col then 2 else 1) ∧
      (∀ y ∈ x.2.srcs, t.heldTill 9 y.1 (s.now + occ + 128)) ∧
      (x.2.known = none → ∀ y ∈ x.2.srcs, ∀ i < vectors x.2, t.heldTill 7 (128 * y.2 + job.row0 + i) rho) ∧
      { t.me.still with q := s.me.q, arrayFree := s.me.arrayFree, leases := s.me.leases } = s.me.still ∧
      (∀ id, id ≠ s.id → t.coreAt id = s.coreAt id) ∧ s.sameBytes t

/-- R209, R210, R213, R220: mwld takes the loft path for nb ticks, leases its buffer until ρ and reads from t + 12 on;
mclr takes the array for a tick, leases the rows of its accumulator, and clears it at t + 270; a word whose resource is
held raises port conflict, and a load beyond a column's slice space-bound. -/
def Sys2Proof.Claims.mxLoadsAndClearsIssue : Prop :=
  ∀ (g : BitVec 4) (b c : Bool) (f : BitVec 3) (m : BitVec 2) (o : BitVec 11) (s : State), s.cur.early = false →
    let nb := (if f.toNat < 4 then 8 else 16) + (if m.toNat % 2 = 1 then 2 else 0)
    (leaseOn s.me s.now 8 b.toNat = none → leaseOn s.me s.now 9 b.toNat = none → f.toNat ∈ [0, 2, 4, 5] →
      (s.me.loftFree ≤ s.now → 32 * o.toNat + 16 * nb ≤ 65536 →
        ∃ t job, exec (.mwld g b f m o) s = .next t ∧ t.me.loftFree = s.now + nb ∧ t.heldTill 8 b.toNat (s.now + 16 + nb) ∧
          s.pends t (s.now + 12) phRead (.accessPerform (.mwldBeat s.cur.word job 0)) ∧ job.nb = nb ∧
          job.off = 32 * o.toNat ∧ job.buf = b.toNat ∧
          (job.live = if 2 ≤ m.toNat then (s.me.wb b.toNat).bitmap else BitVec.allOnes 128) ∧
          { t.me.still with leases := s.me.leases, loftFree := s.me.loftFree, accessesTill := s.me.accessesTill } =
            s.me.still ∧ (∀ id, id ≠ s.id → t.coreAt id = s.coreAt id) ∧ s.sameBytes t) ∧
      (65536 < 32 * o.toNat + 16 * nb →
        exec (.mwld g b f m o) s = .next (s.fault 0x10 (addrDetail .loft (32 * o.toNat)))) ∧
      (s.now < s.me.loftFree → 32 * o.toNat + 16 * nb ≤ 65536 →
        exec (.mwld g b f m o) s = .next (s.fault 0x15 0))) ∧
    (s.me.arrayFree ≤ s.now → ∃ t, exec (.mclr g c) s = .next t ∧ t.me.arrayFree = s.now + 1 ∧
      s.pends t (s.now + 270) phResult (.leasedResult s.cur.word (.accClear c.toNat)) ∧
      (∀ i < 128, t.heldTill 7 (128 * c.toNat + i) (s.now + 271)) ∧
      { t.me.still with leases := s.me.leases, arrayFree := s.me.arrayFree } = s.me.still ∧
      (∀ id, id ≠ s.id → t.coreAt id = s.coreAt id) ∧ s.sameBytes t) ∧
    (s.now < s.me.arrayFree → exec (.mclr g c) s = .next (s.fault 0x15 0))

/-- R209, R210, R214, R215, R216: mscl takes the scales from the entry it pops, msparse the bitmap and L of its buffer, and
mcfg the drain configuration, all at their issue tick; an empty queue raises queue miss, a poisoned entry poison consumed, and
a bitmap whose ones are not L operand format. -/
def Sys2Proof.Claims.mxControlWords : Prop :=
  ∀ (g : BitVec 4) (q : BitVec 3) (b v : Bool) (l : BitVec 8) (r : BitVec 2) (f : BitVec 3) (s : State),
    s.cur.early = false → s.me.controlFree ≤ s.now →
    (∀ e rest, vget [] s.me.q q.toNat = e :: rest → e.ready ≤ s.now → e.tile.poison = false →
      (e.tile.tag = .f32 → ∀ x ∈ [(Instr.msclAct g q, true, none, none), (.msclWt0 g q, false, some 0, none),
          (.msclWt1 g q, false, none, some 0), (.msclAll g q, true, some 128, some 129)],
        ∃ t, exec x.1 s = .next t ∧ vget [] t.me.q q.toNat = rest ∧
          (∀ i < 128, t.me.asc.extractLsb' (32 * i) 32 =
            if x.2.1 then e.tile.data.extractLsb' (32 * i) 32 else s.me.asc.extractLsb' (32 * i) 32) ∧
          t.me.wb 0 = { s.me.wb 0 with wsc := (x.2.2.1.map (fun i : Nat => e.tile.data.extractLsb' (32 * i) 32)).getD (s.me.wb 0).wsc } ∧
          t.me.wb 1 = { s.me.wb 1 with wsc := (x.2.2.2.map (fun i : Nat => e.tile.data.extractLsb' (32 * i) 32)).getD (s.me.wb 1).wsc } ∧
          { t.me with q := s.me.q, asc := s.me.asc, wbuf := s.me.wbuf, controlFree := s.me.controlFree } = s.me ∧
          s.onlyMe t ∧ s.sameBytes t) ∧
      (e.tile.tag = .u8 → leaseOn s.me s.now 8 b.toNat = none → leaseOn s.me s.now 9 b.toNat = none →
        ((List.range 128).filter (fun i => e.tile.data.getLsbD i)).length = l.toNat →
        ∃ t, exec (.msparse g b q l) s = .next t ∧
          t.me.wb b.toNat = { s.me.wb b.toNat with bitmap := e.tile.data.setWidth 128, live := l } ∧
          t.me.wb (1 - b.toNat) = s.me.wb (1 - b.toNat) ∧ vget [] t.me.q q.toNat = rest ∧
          { t.me with q := s.me.q, wbuf := s.me.wbuf, controlFree := s.me.controlFree } = s.me ∧
          s.onlyMe t ∧ s.sameBytes t) ∧
      (e.tile.tag = .u8 → leaseOn s.me s.now 8 b.toNat = none → leaseOn s.me s.now 9 b.toNat = none →
        ((List.range 128).filter (fun i => e.tile.data.getLsbD i)).length ≠ l.toNat →
        exec (.msparse g b q l) s = .next (s.fault 0x22 0))) ∧
    (∀ e rest, vget [] s.me.q q.toNat = e :: rest → e.ready ≤ s.now → e.tile.poison = true →
      (e.tile.tag = .f32 → ∀ i ∈ [Instr.msclAct g q, .msclWt0 g q, .msclWt1 g q, .msclAll g q],
        ∃ d, exec i s = .next (s.fault 0x42 d)) ∧
      (e.tile.tag = .u8 → leaseOn s.me s.now 8 b.toNat = none → leaseOn s.me s.now 9 b.toNat = none →
        ∃ d, exec (.msparse g b q l) s = .next (s.fault 0x42 d))) ∧
    (vget [] s.me.q q.toNat = [] → ∀ i ∈ [Instr.msclAct g q, .msclWt0 g q, .msclWt1 g q, .msclAll g q, .msparse g b q l],
      exec i s = .next (s.fault 0x07 0)) ∧
    ∃ t, exec (.mcfg g v r f) s = .next t ∧ t.me.mcfg.toNat = f.toNat + 8 * r.toNat + 32 * v.toNat ∧
      { t.me with mcfg := s.me.mcfg, controlFree := s.me.controlFree } = s.me ∧ s.onlyMe t ∧ s.sameBytes t

/-- R209, R210, R213–R216, R220: loads, clears and control words of MX. -/
def Obligations.MxLoadsAndControl : Prop := Sys2Proof.Claims.mxLoadsAndClearsIssue ∧ Sys2Proof.Claims.mxControlWords

/-- R210, R221: mdrain converts its rows to the drain format, puts the entry into o[oi] at its issue with ready tick t + 8,
behind the entries that leave before it, and with z clears the rows; its flags follow at t + 7. A NaN is raised at t + 8, and
then nothing is pushed and no row is cleared; that it has k-step 0, its row and its column is the model's choice (log 138). A
row group beyond the accumulator raises operand format. -/
def Obligations.MxDrain : Prop :=
  ∀ (g : BitVec 4) (c : Bool) (q : BitVec 2) (z : Bool) (r : BitVec 4) (s : State), s.cur.early = false →
    s.me.controlFree ≤ s.now → s.me.mcfg.toNat % 8 < 5 →
    let tag := floatTag (s.me.mcfg.toNat % 8)
    let rows := 4096 / (128 * widthOf tag)
    let first := r.toNat * rows
    let cell (i : Nat) : Res := convertElem .f32 tag (rmodeOf (s.me.mcfg.extractLsb' 3 2)) (s.me.mcfg.getLsbD 5)
      ((s.me.accRow c.toNat (first + i / 128)).extractLsb' (32 * (i % 128)) 32).toNat
    (first < 128 → (∀ i < rows, leaseOn s.me s.now 7 (128 * c.toNat + first + i) = none) →
      ((∀ i < 128 * rows, (cell i).nan = false) →
        ∃ t fl pre post, exec (.mdrain g c q z r) s = .next t ∧
          (let new : QEnt := ⟨⟨ofElems (widthOf tag) ((List.range (128 * rows)).map fun i => (cell i).bits), tag, false⟩,
             s.now + 8, s.cur.word, 0, []⟩
           vget [] s.me.o q.toNat = pre ++ post ∧ vget [] t.me.o q.toNat = pre ++ new :: post ∧
             (∀ e ∈ pre, entryBefore new e = false) ∧ ∀ e ∈ post.head?, entryBefore new e = true) ∧
          (∀ k < 4, k ≠ q.toNat → vget [] t.me.o k = vget [] s.me.o k) ∧
          (∃ e ∈ t.agenda, e.at' = s.now + 8 ∧ e.act = .queueEntryReady s.cur.word true q.toNat (s.now + 8)) ∧
          (∃ e ∈ t.agenda, e.at' = s.now + 7 ∧ e.act = .leasedResult s.cur.word (.vx ⟨[], none, none, fl⟩)) ∧
          (∀ b, fl.getLsbD b = true ↔ ∃ i < 128 * rows, (cell i).flags.getLsbD b = true) ∧
          (∀ a < 2, ∀ k < 128, t.me.accRow a k =
            if z = true ∧ a = c.toNat ∧ first ≤ k ∧ k < first + rows then 0 else s.me.accRow a k) ∧
          { t.me.still with acc := s.me.acc, leases := s.me.leases, controlFree := s.me.controlFree, o := s.me.o } = s.me.still ∧
          (∀ id, id ≠ s.id → t.coreAt id = s.coreAt id) ∧ s.sameBytes t) ∧
      ∀ i < 128 * rows, (cell i).nan = true → (∀ j < i, (cell j).nan = false) →
        ∃ t, exec (.mdrain g c q z r) s = .next t ∧ t.me.acc = s.me.acc ∧ t.me.o = s.me.o ∧
          s.pends t (s.now + 8) phControl (.leasedResult s.cur.word (.fault 0x20
            (BitVec.ofNat 256 ((first + i / 128) * 2 ^ 32 + i % 128 * 2 ^ 64))))) ∧
    (128 ≤ first → exec (.mdrain g c q z r) s = .next (s.fault 0x22 0))

namespace Sys2Proof.Claims

/-- Row i of a product from one of its buffers, over the accumulator as it stands, or over zeros for a known-answer form: the
new row, its flags, its NaNs (R217–R219, R222). -/
def rowOf (c : Core) (p : Product) (x : WBuf × Nat) (i : Nat) : AccRow × BitVec 5 × List (Nat × Nat × Nat) :=
  productRow p x.1 ((List.range 128).map (productTerms p.fwd p.mode x.1)) (p.row0 + i) (p.vecs.getD i [])
    (if p.known.isSome then 0 else c.accRow x.2 (p.row0 + i))

/-- R142, R143, R217–R219, R222: a product without a NaN writes its rows, of each of its buffers into the accumulator that it
feeds, and no other; a known-answer product writes no row and pushes the exclusive OR of its rows instead; the flags of the rows
join FLAGS_MX. A product that meets a NaN writes and pushes nothing, and the NaN of the lowest coordinates is raised at ρ. -/
def productsPerform : Prop :=
  ∀ (w : WordRef) (p : Product) (s : State), s.mine w = true → (∀ x ∈ p.srcs, x.2 < 2) → (p.srcs.map (·.2)).Nodup →
    p.row0 + p.vecs.length ≤ 128 →
    let c := s.coreAt w.id
    let row (x : WBuf × Nat) (i : Nat) := rowOf c p x i
    let clean := ∀ x ∈ p.srcs, ∀ i < p.vecs.length, (row x i).2.2 = []
    (clean → ∃ t fl, exec (.leasedResult w (.product p)) s = .next t ∧
      (∀ b, fl.getLsbD b = true ↔ ∃ x ∈ p.srcs, ∃ i < p.vecs.length, (row x i).2.1.getLsbD b = true) ∧
      (t.coreAt w.id).flagsMx = c.flagsMx ||| fl ∧ { t with cores := s.cores, agenda := s.agenda, seq := s.seq } = s ∧
      (p.known = none →
        (∀ x ∈ p.srcs, ∀ i < p.vecs.length, (t.coreAt w.id).accRow x.2 (p.row0 + i) = (row x i).1) ∧
        (∀ a < 2, ∀ k < 128, (k < p.row0 ∨ p.row0 + p.vecs.length ≤ k ∨ ∀ x ∈ p.srcs, x.2 ≠ a) →
          (t.coreAt w.id).accRow a k = c.accRow a k) ∧
        { t.coreAt w.id with acc := c.acc, flagsMx := c.flagsMx } = c.shareFlags .mx fl ∧ t.agenda = s.agenda) ∧
      ∀ q < 4, p.known = some q → ∀ x, p.srcs = [x] → ∃ (image : Image) (pre post : List QEnt),
        let new : QEnt := ⟨⟨image, .i32, false⟩, s.now + 1, w, c.newFlags .mx fl, []⟩
        (∀ i < 8, ∀ n < 4096, image.getLsbD (4096 * i + n) =
          ((List.range p.vecs.length).filter (fun j => (p.row0 + j) % 8 == i)).foldl
            (fun m j => m != (row x j).1.getLsbD n) false) ∧
        vget [] (c.shareFlags .mx fl).o q = pre ++ post ∧ vget [] (t.coreAt w.id).o q = pre ++ new :: post ∧
        (∀ e ∈ pre, entryBefore new e = false) ∧ (∀ e ∈ post.head?, entryBefore new e = true) ∧
        (∀ k < 4, k ≠ q → vget [] (t.coreAt w.id).o k = vget [] (c.shareFlags .mx fl).o k) ∧
        { t.coreAt w.id with o := c.o, flagsMx := c.flagsMx } = c ∧
        s.pends t (s.now + 1) phLand (.queueEntryReady w true q (s.now + 1))) ∧
    (¬ clean → ∃ t y, exec (.leasedResult w (.product p)) s = .next t ∧ t.cores = s.cores ∧ t.devs = s.devs ∧
      (∃ x ∈ p.srcs, ∃ i < p.vecs.length, y ∈ (row x i).2.2) ∧
      (∀ x ∈ p.srcs, ∀ i < p.vecs.length, ∀ z ∈ (row x i).2.2, coordLt z y = false) ∧
      s.pends t (s.now + 1) phControl (.leasedResult w (.fault 0x20
        (BitVec.ofNat 256 (y.1 + y.2.1 * 2 ^ 32 + y.2.2 * 2 ^ 64)))))

/-- R210, R213, R220, R221: a clear zeroes its accumulator alone; a load writes its buffer's weights, format and mode and
keeps the other buffer and the scales; the flags of a drain join FLAGS_MX, and its entry keeps those that it alone has set
(log 129). -/
def mxStoresPerform : Prop :=
  ∀ (w : WordRef) (s : State), s.mine w = true →
    (∀ a < 2, ∃ t, exec (.leasedResult w (.accClear a)) s = .next t ∧
      (∀ b < 2, ∀ k < 128, (t.coreAt w.id).accRow b k = if b = a then 0 else (s.coreAt w.id).accRow b k) ∧
      { t.coreAt w.id with acc := (s.coreAt w.id).acc } = s.coreAt w.id ∧ { t with cores := s.cores } = s) ∧
    (∀ j : MwldJob, j.buf < 2 → ∃ t, exec (.leasedResult w (.wbuf j)) s = .next t ∧
      ((t.coreAt w.id).wb j.buf).cols = j.cols ∧ ((t.coreAt w.id).wb j.buf).fmt = j.fmt ∧
      ((t.coreAt w.id).wb j.buf).mode = j.mode ∧ ((t.coreAt w.id).wb j.buf).wsc = ((s.coreAt w.id).wb j.buf).wsc ∧
      ((t.coreAt w.id).wb j.buf).bitmap = ((s.coreAt w.id).wb j.buf).bitmap ∧
      (t.coreAt w.id).wb (1 - j.buf) = (s.coreAt w.id).wb (1 - j.buf) ∧
      { t.coreAt w.id with wbuf := (s.coreAt w.id).wbuf } = s.coreAt w.id ∧ { t with cores := s.cores } = s) ∧
    ∀ fl : BitVec 5, w.eng = .mx → ∃ t, exec (.leasedResult w (.vx ⟨[], none, none, fl⟩)) s = .next t ∧
      (t.coreAt w.id).flagsMx = (s.coreAt w.id).flagsMx ||| fl ∧
      (∀ k < 4, vget [] (t.coreAt w.id).o k = (vget [] (s.coreAt w.id).o k).map (fun e =>
        if e.word = w then { e with flags := fl &&& ~~~(s.coreAt w.id).flagsMx }
        else if e.word.eng = .mx then { e with flags := e.flags &&& ~~~fl } else e)) ∧
      { t.coreAt w.id with o := (s.coreAt w.id).o, flagsMx := (s.coreAt w.id).flagsMx } = s.coreAt w.id ∧
      { t with cores := s.cores } = s

end Sys2Proof.Claims

/-- R142, R143, R210, R213, R217–R222: what performs of MX. -/
def Obligations.MxResultsPerform : Prop := Sys2Proof.Claims.productsPerform ∧ Sys2Proof.Claims.mxStoresPerform

/-! ## The address engine -/

namespace Sys2Proof.Claims

/-- The AX words that write an a register, and their results (R155, R156). -/
def axWordsA (g : BitVec 4) (d a b : BitVec 5) (m : BitVec 11) (l : BitVec 37) (n : BitVec 4) (c : Core) : List (Instr × Reg) :=
  let x := c.ra a.toNat
  let y := c.ra b.toNat
  [(.aadd g d a b, x + y), (.asub g d a b, x - y), (.aand g d a b, x &&& y), (.aor g d a b, x ||| y),
   (.axor g d a b, x ^^^ y), (.ashl g d a b, x <<< (y &&& 63)), (.ashr g d a b, x >>> (y &&& 63)),
   (.asra g d a b, x.sshiftRight' (y &&& 63)), (.aaddi g d a m, x + m.signExtend 64),
   (.aandi g d a m, x &&& m.signExtend 64), (.ashli g d a m, x <<< m.toNat), (.ashri g d a m, x >>> m.toNat),
   (.aliL g d l, l.signExtend 64), (.amov g d n, (c.rn n.toNat).setWidth 64)]

/-- The AX words that write an n register, and their results (R156). -/
def axWordsN (g d n : BitVec 4) (a : BitVec 5) (m : BitVec 13) (u : BitVec 17) (c : Core) : List (Instr × BitVec 32) :=
  [(.nli g d u, u.setWidth 32), (.naddi g d n m, c.rn n.toNat + m.signExtend 32), (.nmov g d a, (c.ra a.toNat).setWidth 32)]

/-- The copy words of one core with what R162 gives them: spaces, Ar, Aw, c, read and write ports. -/
def copyWords (g : BitVec 4) (d a : BitVec 5) (n : BitVec 4) (h : BitVec 5) :
    List (Instr × Space × Space × Nat × Nat × Nat × Nat × Nat) :=
  [(.cpHbmSp g d a n h, .hbm, .sp, 300, 600, 17, portHR, portSW), (.cpHbmLoft g d a n h, .hbm, .loft, 300, 606, 17, portHR, portLW),
   (.cpSpLoft g d a n, .sp, .loft, 6, 12, 1, portSR, portLW), (.cpSpSp g d a n, .sp, .sp, 6, 12, 1, portSR, portSW),
   (.cpLoftSp g d a n, .loft, .sp, 6, 12, 1, portLR, portSW)]

/-- A range of a local space, or of a bound handle's extent. -/
def Holds (s : State) (space : Space) (h : Nat) (a n : Nat) : Prop :=
  match space with
  | .hbm => s.me.isBound h = true ∧ a + n ≤ hExtent (s.me.rh h)
  | .loft => a + n ≤ 2 ^ 23
  | _ => a + n ≤ 2 ^ 21

/-- A PEER range: another member of the itinerary, a bound handle, the range in the window of that member (R145, R148). -/
def HoldsPeer (s : State) (h : Nat) (a n : Nat) : Prop :=
  s.me.isBound h = true ∧ a / 2 ^ 56 % 256 ≠ s.me.member ∧ a / 2 ^ 56 % 256 < (s.runOf s.id).members.length ∧
    a % 2 ^ 56 + n ≤ 2 ^ 48

/-- What a copy, feed or drain changes of its core at issue: ports, captured handles, the last access tick. -/
def OnlyPorts (s t : State) : Prop :=
  { t.me with ports := s.me.ports, captures := s.me.captures, accessesTill := s.me.accessesTill } = s.me ∧
    (∀ id, id ≠ s.id → t.coreAt id = s.coreAt id) ∧ t.devs = s.devs ∧ s.sameBytes t

end Sys2Proof.Claims

/-- R155–R157: the address and count words write their one register with their results; aswz gives the SP placement of an
address. -/
def Sys2Proof.Claims.axArithmetic : Prop :=
  ∀ (g n n2 : BitVec 4) (d a b : BitVec 5) (m : BitVec 11) (l : BitVec 37) (k : BitVec 13) (u : BitVec 17) (s : State),
    s.cur.early = false →
    (∀ o ∈ axWordsA g d a b m l n s.me, ∃ t, exec o.1 s = .next t ∧ s.wroteA t d o.2) ∧
    (∀ o ∈ axWordsN g n n2 a k u s.me, ∃ t, exec o.1 s = .next t ∧ s.wroteN t n o.2) ∧
    ∃ t, exec (.aswz g d a m) s = .next t ∧
      let line := ((s.me.ra a.toNat + m.signExtend 64) >>> 6) &&& 32767#64
      s.wroteA t d (((line >>> 5) <<< 5) ||| ((line ^^^ (line >>> 5)) &&& 31))

/-- R161–R163: a copy of no bytes has no effect; a copy of 64-byte lines whose ranges lie in their windows and whose port
ticks are free puts its first read in flight for t + Ar and takes its ports; a length, source or destination off a line
raises misaligned access. -/
def Obligations.CopiesIssue : Prop :=
  ∀ (g : BitVec 4) (d a : BitVec 5) (n : BitVec 4) (h : BitVec 5) (s : State), s.cur.early = false →
    let dst := (s.me.ra d.toNat).toNat
    let src := (s.me.ra a.toNat).toNat
    let len := (s.me.rn n.toNat).toNat
    ∀ x ∈ copyWords g d a n h,
      (len = 0 → exec x.1 s = .next s) ∧
      (len ≠ 0 → len % 64 = 0 → src % 64 = 0 → dst % 64 = 0 → Holds s x.2.1 h.toNat src len → Holds s x.2.2.1 0 dst len →
        (∀ j < (len + 1023) / 1024, (x.2.2.2.2.2.2.1, s.now + x.2.2.2.1 + x.2.2.2.2.2.1 * j) ∉ s.me.ports ∧
          (x.2.2.2.2.2.2.2, s.now + x.2.2.2.2.1 + x.2.2.2.2.2.1 * j) ∉ s.me.ports) →
        ∃ t job, exec x.1 s = .next t ∧
          s.pends t (s.now + x.2.2.2.1) phRead (.accessPerform (.copyRead s.cur.word job 0)) ∧
          job.src = x.2.1 ∧ job.dst = x.2.2.1 ∧ job.dAddr = dst ∧ job.len = len ∧ job.step = x.2.2.2.2.2.1 ∧
          job.lag = x.2.2.2.2.1 - x.2.2.2.1 ∧
          job.sAddr = (if x.2.1 = .hbm then hBase (s.me.rh h.toNat) + src else src) ∧ OnlyPorts s t) ∧
      (len ≠ 0 → len % 64 ≠ 0 ∨ src % 64 ≠ 0 ∨ dst % 64 ≠ 0 → Holds s x.2.1 h.toNat src len → Holds s x.2.2.1 0 dst len →
        ∃ v, exec x.1 s = .next (s.fault 0x11 v))

/-- R148, R162, R168, R271: cp.peer.sp and qfd.peer send a request for each 256-byte beat to the member their address
names, and change nothing else; of no bytes or entries they have no effect. Which core of the member answers is log 32. -/
def Sys2Proof.Claims.peerReadsIssue : Prop :=
  ∀ (g : BitVec 4) (d a : BitVec 5) (n : BitVec 4) (h : BitVec 5) (q : BitVec 3) (p : BitVec 3) (s : State),
    s.cur.early = false →
    let dst := (s.me.ra d.toNat).toNat
    let src := (s.me.ra a.toNat).toNat
    let len := (s.me.rn n.toNat).toNat
    let lat := s.latency s.id.dev (s.peerCore src).dev
    (len = 0 → exec (.cpPeerSp g d a n h) s = .next s ∧ exec (.qfdPeer g q a n h false p) s = .next s) ∧
    (len ≠ 0 → len % 64 = 0 → src % 64 = 0 → dst % 64 = 0 → HoldsPeer s h.toNat src len → dst + len ≤ 2 ^ 21 →
      (∀ j < (len + 255) / 256, (portPR, s.now + 300 + lat + 24 * j) ∉ s.me.ports ∧
        (portSW, s.now + 600 + 2 * lat + 24 * j) ∉ s.me.ports) →
      ∃ t, exec (.cpPeerSp g d a n h) s = .next t ∧ OnlyPorts s t ∧
        ∀ j < (len + 255) / 256, ∃ e ∈ t.agenda, ∃ dev l hops job, e.act =
          .flitArrival dev l (.enter s.cur.word s.id.dev hops (.peerRequest (.copy job j))) ∧ job.len = len ∧ job.dAddr = dst ∧
          job.target = some (s.peerCore src)) ∧
    (len ≠ 0 → HoldsPeer s h.toNat src (4096 * len) →
      (∀ j < 16 * len, (portPR, s.now + 300 + lat + 24 * j) ∉ s.me.ports) →
      ∃ t, exec (.qfdPeer g q a n h false p) s = .next t ∧ OnlyPorts s t ∧
        ∀ j < 16 * len, ∃ e ∈ t.agenda, ∃ dev l hops job, e.act =
          .flitArrival dev l (.enter s.cur.word s.id.dev hops (.peerRequest (.feed job (j / 16) (j % 16) []))) ∧
          job.entries = len ∧ job.q = q.toNat ∧ job.target = some (s.peerCore src))

/-- A pitch fills whole lines for elements of w bytes, where column order is asked for (R167). -/
def Sys2Proof.Claims.FillsLines (o : Bool) (p : BitVec 3) (w : Nat) : Prop := o = true → w ≠ 0 ∧ 64 * 2 ^ p.toNat ∣ 64 * w

/-- R165–R169: a feed of no entries has no effect, another puts its first read in flight for t + 6 (SP) or t + 300 (HBM);
a drain pops a ready entry at issue and puts its four writes in flight for t + 6 on; an empty queue raises queue miss. In
column order the pitch goes with the feed, a drained entry's rows are written where they came from, and a pitch that does
not fill whole lines of the tag's elements, or of the popped entry's, raises operand format. -/
def Sys2Proof.Claims.feedsAndDrains : Prop :=
  ∀ (g : BitVec 4) (q : BitVec 3) (oq : BitVec 2) (a : BitVec 5) (n : BitVec 4) (h k : BitVec 5) (tag : Tag) (o : Bool)
    (p : BitVec 3) (s : State), s.cur.early = false → tagOf k = some tag →
    let src := (s.me.ra a.toNat).toNat
    let e := (s.me.rn n.toNat).toNat
    let pitch := if o then some (64 * 2 ^ p.toNat) else none
    (e = 0 → exec (.qfdSp g q a n k o p) s = .next s ∧ exec (.qfdHbm g q a n h o p) s = .next s ∧
      exec (.odrSp g oq a n o p) s = .next s) ∧
    (e ≠ 0 → src + 4096 * e ≤ 2 ^ 21 → (∀ j < 4 * e, (portSR, s.now + 6 + j) ∉ s.me.ports) →
      (FillsLines o p (widthOf tag) → ∃ t job, exec (.qfdSp g q a n k o p) s = .next t ∧ OnlyPorts s t ∧
        s.pends t (s.now + 6) phRead (.accessPerform (.feedRead s.cur.word job 0 0 [])) ∧ job.q = q.toNat ∧
        job.addr = src ∧ job.entries = e ∧ job.tag = tag ∧ job.lag = 3 ∧ job.pitch = pitch) ∧
      (¬ FillsLines o p (widthOf tag) → exec (.qfdSp g q a n k o p) s = .next (s.fault 0x22 0))) ∧
    (e ≠ 0 → Holds s .hbm h.toNat src (4096 * e) → (∀ j < 4 * e, (portHR, s.now + 300 + 17 * j) ∉ s.me.ports) →
      (FillsLines o p (widthOf (hTag (s.me.rh h.toNat))) → ∃ t job, exec (.qfdHbm g q a n h o p) s = .next t ∧ OnlyPorts s t ∧
        s.pends t (s.now + 300) phRead (.accessPerform (.feedRead s.cur.word job 0 0 [])) ∧ job.q = q.toNat ∧
        job.addr = hBase (s.me.rh h.toNat) + src ∧ job.entries = e ∧ job.tag = hTag (s.me.rh h.toNat) ∧ job.pitch = pitch) ∧
      (¬ FillsLines o p (widthOf (hTag (s.me.rh h.toNat))) → exec (.qfdHbm g q a n h o p) s = .next (s.fault 0x22 0))) ∧
    (e ≠ 0 → src + 4096 * e ≤ 2 ^ 21 → (∀ j < 4 * e, (portSW, s.now + 6 + j) ∉ s.me.ports) →
      ∀ x rest, vget [] s.me.o oq.toNat = x :: rest → x.ready ≤ s.now → x.tile.poison = false →
      (FillsLines o p (widthOf x.tile.tag) → ∃ t, exec (.odrSp g oq a n o p) s = .next t ∧ vget [] t.me.o oq.toNat = rest ∧
        (∀ b < 4, ∃ y ∈ t.agenda, y.at' = s.now + 6 + b ∧ y.act = .accessPerform (.store s.cur.word .sp (src + 1024 * b)
          (((imageBytes (if o then rowOrder (widthOf x.tile.tag) (64 * 2 ^ p.toNat) x.tile.data else x.tile.data)).drop
            (1024 * b)).take 1024) [])) ∧
        { t.me with o := s.me.o, ports := s.me.ports, accessesTill := s.me.accessesTill } = s.me ∧ s.sameBytes t) ∧
      (¬ FillsLines o p (widthOf x.tile.tag) → exec (.odrSp g oq a n o p) s = .next (s.fault 0x22 0))) ∧
    (e ≠ 0 → vget [] s.me.o oq.toNat = [] → exec (.odrSp g oq a n o p) s = .next (s.fault 0x07 0))

/-- R167, R168: with its last beat an entry of an SP or HBM feed takes its place in its queue, ready `lag` ticks later: its
source bytes as they stand, or in column order their transpose, in which byte i of column c's row r is byte i of row r's
column c of the source. A drain in column order puts the bytes back (R169; log 37). -/
def Sys2Proof.Claims.entriesAreFormed : Prop :=
  (∀ (w : WordRef) (f : FeedJob) (j : Nat) (got : List Byte) (s : State), s.mine w = true → f.target = none → f.beat = 1024 →
    f.q < 8 → s.poisonChk w.id (s.ctxW w) f.src (f.addr + 4096 * j + 3072) 1024 = none →
    s.watchChk w f.src (f.addr + 4096 * j + 3072) 1024 false = none →
    ∃ t x, exec (.accessPerform (.feedRead w f j 3 got)) s = .next t ∧ x ∈ vget [] (t.coreAt w.id).q f.q ∧
      x.ready = s.now + f.lag ∧ x.word = w ∧ x.tile.tag = f.tag ∧ x.tile.poison = false ∧
      (let image := ofBytes (got ++ s.readSpace w.id (s.ctxW w) f.src (f.addr + 4096 * j + 3072) 1024)
       (f.pitch = none → x.tile.data = image) ∧
       ∀ p, f.pitch = some p → x.tile.data = columnOrder (widthOf f.tag) p image) ∧
      { t.coreAt w.id with q := (s.coreAt w.id).q } = s.coreAt w.id ∧ s.sameBytes t) ∧
  ∀ (w : Nat) (p : BitVec 3) (x : Image), w ∈ [1, 2, 4] → FillsLines true p w →
    let pitch := 64 * 2 ^ p.toNat
    let rows := 4096 / pitch
    ∀ r < rows, ∀ c < pitch / w, ∀ i < w,
      (imageBytes (columnOrder w pitch x)).getD ((c * rows + r) * w + i) 0 = (imageBytes x).getD (r * pitch + c * w + i) 0 ∧
      (imageBytes (rowOrder w pitch x)).getD (r * pitch + c * w + i) 0 = (imageBytes x).getD ((c * rows + r) * w + i) 0

/-- R165–R169: feeds and drains. -/
def Obligations.FeedsAndDrainsIssue : Prop := Sys2Proof.Claims.feedsAndDrains ∧ Sys2Proof.Claims.entriesAreFormed

/-- R78, R163, R170, R171: a dispatch within its windows, aligned, in size, with a landing tick far enough on and its port ticks
free is outstanding from its issue, numbered, and lands at t + Δ; a store reads SP from t + 6 on; one of a bad size or a
landing tick that is too near raises the dispatch fault; one that meets a taken port tick raises port conflict, which is
the lower code. Until when a dispatch counts as outstanding is the model's choice (log 141). -/
def Obligations.DispatchesIssue : Prop :=
  ∀ (g : BitVec 4) (d a : BitVec 5) (n : BitVec 4) (post : Bool) (s : State), s.cur.early = false →
    let dst := (s.me.ra d.toNat).toNat
    let src := (s.me.ra a.toNat).toNat
    let len := (s.me.rn n.toNat).toNat
    let delta := (s.me.rn (n.toNat + 1)).toNat
    ∀ x ∈ [(Instr.xldHost g d a n post, true, false), (.xstHost g d a n post, false, false),
        (.xldPool g d a n post, true, true), (.xstPool g d a n post, false, true)],
      let win := if x.2.2 then (s.ctxOf s.id).poolWin else (s.ctxOf s.id).hostWin
      let lim := if x.2.2 then (s.ctxOf s.id).dlPool else (s.ctxOf s.id).dlHost
      let beat (j : Nat) : Nat × Nat := if x.2.1 then (portSW, s.now + delta + j) else (portSR, s.now + 6 + j)
      (if x.2.1 then dst else src) + len ≤ 2 ^ 21 → (if x.2.1 then src else dst) + len ≤ win.toNat →
      src % 64 = 0 → dst % 64 = 0 → len % 64 = 0 →
      (64 ≤ len → len ≤ 65536 → s.me.outstanding x.2.1 + len ≤ 65536 → lim.toNat + 16 * ((len + 4095) / 4096) ≤ delta →
        s.tick + delta + (len + 1023) / 1024 ≤ 2 ^ 22 →
        (∀ j < (len + 1023) / 1024, beat j ∉ s.me.ports) →
        ∃ t y, exec x.1 s = .next t ∧ t.me.dispatches = s.me.dispatches ++ [y] ∧ t.me.dispatchNo = s.me.dispatchNo + 1 ∧
          y.number = s.me.dispatchNo ∧ y.load = x.2.1 ∧ y.pool = x.2.2 ∧ y.dst = dst ∧ y.src = src ∧ y.n = len ∧
          y.post = post ∧ y.due = s.now + delta ∧ y.issued = s.now ∧ y.done = false ∧ y.ended = false ∧
          (∃ e ∈ t.agenda, e.at' = s.now + delta ∧ e.act = .dispatchLanding s.cur.word s.me.dispatchNo) ∧
          (x.2.1 = false → ∃ e ∈ t.agenda, e.at' = s.now + 6 ∧ e.act = .accessPerform (.dispRead s.cur.word s.me.dispatchNo 0)) ∧
          { t.me with dispatches := s.me.dispatches, dispatchNo := s.me.dispatchNo, ports := s.me.ports, accessesTill := s.me.accessesTill } = s.me ∧ s.sameBytes t) ∧
      ((∀ j < (len + 1023) / 1024, beat j ∉ s.me.ports) →
        len < 64 ∨ 65536 < len ∨ 65536 < s.me.outstanding x.2.1 + len ∨ delta < lim.toNat + 16 * ((len + 4095) / 4096) ∨
          2 ^ 22 < s.tick + delta + (len + 1023) / 1024 →
        exec x.1 s = .next (s.fault 0x16 0)) ∧
      ((∃ j < (len + 1023) / 1024, beat j ∈ s.me.ports) → exec x.1 s = .next (s.fault 0x15 0))

/-- R161, R165, R171, R172, R225: a copy's beat reads its bytes as they stand and puts the write and the next beat in
flight; an entry whose queue holds no more than eight ready ones stays, and a ninth is lost and raises queue miss; the flags
that its word alone has set are clear again, in a register as well that a csrr of that count has written (R79, R203; log 129); a
landing that is not complete raises late landing and one that failed the dispatch error. -/
def Sys2Proof.Claims.beatsAndLandings : Prop :=
  (∀ (w : WordRef) (c : CopyJob) (j : Nat) (s : State), s.mine w = true → c.beat * j < c.len →
    s.watchChk w c.src (c.sAddr + c.beat * j) (min c.beat (c.len - c.beat * j)) false = none →
    ∃ t p, exec (.accessPerform (.copyRead w c j)) s = .next t ∧ t.cores = s.cores ∧ t.devs = s.devs ∧
      (∃ e ∈ t.agenda, e.at' = s.now + c.lag ∧ e.act = .accessPerform (.store w c.dst (c.dAddr + c.beat * j)
        (s.readSpace w.id (s.ctxW w) c.src (c.sAddr + c.beat * j) (min c.beat (c.len - c.beat * j))) p)) ∧
      (c.beat * (j + 1) < c.len → ∃ e ∈ t.agenda, e.at' = s.now + c.step ∧ e.act = .accessPerform (.copyRead w c (j + 1)))) ∧
  (∀ (w : WordRef) (res : Bool) (q r : Nat) (s : State),
    let ready := ((s.coreAt w.id).queue res q).filter (fun e => decide (e.ready ≤ r))
    (ready.length ≤ 8 → exec (.queueEntryReady w res q r) s = .next s) ∧
    (8 < ready.length → ∃ x t, ready.getLast? = some x ∧ exec (.queueEntryReady w res q r) s = .next t ∧
      t = (s.modCore w.id (fun c => (c.withdraw x).setQueue res q
        (ready.dropLast ++ ((s.coreAt w.id).queue res q).filter (fun e => decide (r < e.ready))))).raise
          x.word.eng x.word true 0x07 0)) ∧
  (∀ (c : Core) (e : QEnt),
    (e.word.eng ≠ .mx → (c.withdraw e).flagsVx = c.flagsVx &&& ~~~e.flags ∧ (c.withdraw e).flagsMx = c.flagsMx) ∧
    (e.word.eng = .mx → (c.withdraw e).flagsMx = c.flagsMx &&& ~~~e.flags ∧ (c.withdraw e).flagsVx = c.flagsVx) ∧
    (e.before = [] → (c.withdraw e).t = c.t) ∧
    (∀ (k : BitVec 6) (due : List (WordRef × BitVec 5)), k ≠ 0 → c.flagRead = some (k.toNat, due) →
      (∀ f, due.find? (fun x => x.1 == e.word) = some (e.word, f) →
        ∀ j : BitVec 6, vget 0 (c.withdraw e).s j.toNat =
          if j = k then vget 0 c.s j.toNat &&& ~~~(f.setWidth 64) else vget 0 c.s j.toNat) ∧
      (due.find? (fun x => x.1 == e.word) = none → (c.withdraw e).s = c.s)) ∧
    (c.flagRead = none → (c.withdraw e).s = c.s) ∧
    { c.withdraw e with s := c.s, flagsVx := c.flagsVx, flagsMx := c.flagsMx, t := c.t } = c) ∧
  (∀ (w : WordRef) (no : Nat) (d : Dispatch) (s : State), s.mine w = true → (s.coreAt w.id).dispatch? no = some d →
    d.ended = false →
    (d.done = false → exec (.dispatchLanding w no) s =
      .next ((s.raise w.eng w true 0x0D 0).modCore w.id (fun c => c.endDispatch no))) ∧
    (d.done = true → d.failed = true → d.load = true → ∃ t, exec (.dispatchLanding w no) s = .next t ∧
      t = (s.raise w.eng w true 0x17 0).sched (s.now + (d.n + 1023) / 1024) phLand (.accessPerform (.dispWrite w no 0))) ∧
    (d.done = true → d.failed = false → d.load = true → 0 < d.n → ∃ t, exec (.dispatchLanding w no) s = .next t ∧
      t.cores = s.cores ∧ ∃ e ∈ t.agenda, e.at' = s.now ∧ e.act = .accessPerform (.store w .sp d.dst (d.data.take 1024) [])))

/-- R69, R102, R171, R173, R231, R232, R234, R310: a completion of a dispatch that nothing holds back, and on which no
watchpoint acts (log 94), marks it done (that it does so for an itinerary that has retired is the model's reading, log 130): a
load has the bytes that stand at its completer by then, those that others have written there among them, and a store has
written its bytes there and no other, whether its itinerary still runs or has retired. It waits while a fence holds it or an
earlier access of its class to some of its bytes has not performed. A chunk that performs before the others reads or writes
its 64 bytes, and one that carries poison is signalled to the completer. The completion of a scalar access reads or writes its
bytes in HOST and ends the wait. What HOST and POOL hold is kept by context (log 96). -/
def Sys2Proof.Claims.completionsPerform : Prop :=
  (∀ (r : Nat) (id : CoreId) (no k : Nat) (ok : Bool) (outside : List (Nat × Byte)) (d : Dispatch) (s : State),
    (s.run r).away = false → (s.coreAt id).run = some r → (s.coreAt id).dispatch? no = some d →
    d.done = false → d.ended = false → d.n % 64 = 0 → s.memWf →
    let c := (s.run r).ctx
    let far := (s.outsideFar d.pool c outside).far d.pool c
    let at' := if d.load then d.src else d.dst
    (s.dispatchWaits r id d = true →
      exec (.untimedCompletion r id (.dispatch no) ok outside) s = .next (s.outsideFar d.pool c outside)) ∧
    (s.dispatchWaits r id d = false →
      ((s.run r).live = true →
        s.watchOf (s.coreAt id) d.word (if d.pool then .pool else .host) at' d.n (!d.load) = none) →
      (d.load = true → d.data.length = d.n) →
      (ok = true → (d.load = false → d.n ≤ d.data.length) →
        ∃ t y, exec (.untimedCompletion r id (.dispatch no) true outside) s = .next t ∧
          (t.coreAt id).dispatch? no = some y ∧ y.done = true ∧ y.failed = false ∧
          { y with done := d.done, failed := d.failed, data := d.data, chunks := d.chunks } = d ∧
          (d.chunks = [] →
            (d.load = true → y.data = readBytes far d.src d.n ∧ ∀ p n x, readByte (t.far p n) x =
              readByte ((s.outsideFar d.pool c outside).far p n) x) ∧
            (d.load = false → (∀ i < d.n, readByte (t.far d.pool c) (d.dst + i) = d.data.getD i 0) ∧
              ∀ p n x, (p ≠ d.pool ∨ n ≠ c ∨ x < d.dst ∨ d.dst + d.n ≤ x) →
                readByte (t.far p n) x = readByte ((s.outsideFar d.pool c outside).far p n) x))) ∧
      (ok = false → ∃ t y, exec (.untimedCompletion r id (.dispatch no) false outside) s = .next t ∧
        (t.coreAt id).dispatch? no = some y ∧ y.done = true ∧ y.failed = true ∧ y.data = d.data ∧
        ∀ p n x, readByte (t.far p n) x = readByte ((s.outsideFar d.pool c outside).far p n) x) ∧
      (ok = true → 64 * k < d.n → k ∉ d.chunks → (d.load = false → 64 * k + 64 ≤ d.data.length) →
        ∃ t y, exec (.untimedCompletion r id (.chunk no k) true outside) s = .next t ∧
          (t.coreAt id).dispatch? no = some y ∧ y.done = false ∧ y.chunks = k :: d.chunks ∧
          t.indications = s.indications ++ (if d.load = false ∧ k ∈ d.poison then [(d.pool, c, d.dst / 64 + k)] else []) ∧
          (d.load = true → ∀ i < 64, y.data.getD (64 * k + i) 0 = readByte far (d.src + 64 * k + i)) ∧
          (d.load = false → y.data = d.data ∧
            ∀ i < 64, readByte (t.far d.pool c) (d.dst + 64 * k + i) = d.data.getD (64 * k + i) 0)))) ∧
  ∀ (r : Nat) (id : CoreId) (w : WordRef) (a n issued : Nat) (dst : Option LoadDst) (v : Reg) (outside : List (Nat × Byte))
    (s : State), (s.run r).away = false → (s.coreAt id).run = some r →
    (s.coreAt id).wait = .host w a n dst v issued → (s.coreAt id).holds true false issued = false →
    s.strayWaits r id issued a n = false →
    s.watchOf (s.coreAt id) w .host a n dst.isNone = none → s.memWf →
    let c := (s.run r).ctx
    let far := (s.outsideFar false c outside).far false c
    ∃ t, exec (.untimedCompletion r id (.scalar issued) true outside) s = .next t ∧ (t.coreAt id).wait = .none ∧
      (∀ k, dst = some (.sReg k) →
        (t.coreAt id).s = ((s.coreAt id).wsSlot k (BitVec.ofNat 64 (leNat (readBytes far a n)))).s) ∧
      (∀ k, dst = some (.pReg k) → (t.coreAt id).p = ((s.coreAt id).wp k (leNat (readBytes far a n) != 0)).p) ∧
      (dst = none → (∀ i < n, readByte (t.far false c) (a + i) = (leBytes n v.toNat).getD i 0) ∧
        ∀ x, x < a ∨ a + n ≤ x → readByte (t.far false c) x = readByte far x)

/-- R231, R234, R308, R313: an access to HOST that an unwind or a halt left on its way performs when its completion comes: a
store writes its bytes, no register hears of it, and it is on its way no longer, and so with a dispatch that has ended on its
core. That it performs there, and that its failure raises nothing, is the model's reading (log 130). -/
def Sys2Proof.Claims.straysPerform : Prop :=
  (∀ (r : Nat) (id : CoreId) (no : Nat) (outside : List (Nat × Byte)) (d : Dispatch) (s : State),
    (s.run r).away = false → (s.coreAt id).run = some r → (s.coreAt id).dispatch? no = some d → d.done = false →
    d.ended = true → d.load = false → d.chunks = [] → d.n % 64 = 0 → d.n ≤ d.data.length → s.dispatchWaits r id d = false →
    s.memWf →
    let c := (s.run r).ctx
    let far := (s.outsideFar d.pool c outside).far d.pool c
    (∃ t, exec (.untimedCompletion r id (.dispatch no) true outside) s = .next t ∧ (t.coreAt id).dispatch? no = none ∧
      (∀ i < d.n, readByte (t.far d.pool c) (d.dst + i) = d.data.getD i 0) ∧
      (∀ x, x < d.dst ∨ d.dst + d.n ≤ x → readByte (t.far d.pool c) x = readByte far x) ∧
      ∀ k, (t.coreAt k).s = (s.coreAt k).s ∧ (t.coreAt k).sp = (s.coreAt k).sp) ∧
    ∃ t, exec (.untimedCompletion r id (.dispatch no) false outside) s = .next t ∧ (t.coreAt id).dispatch? no = none ∧
      (∀ q, (t.run q).faults = (s.run q).faults) ∧
      ∀ x, readByte (t.far d.pool c) x = readByte far x) ∧
  ∀ (r : Nat) (id : CoreId) (x : Stray) (ok : Bool) (outside : List (Nat × Byte)) (s : State),
    (s.run r).away = false → (s.coreAt id).run = some r → (s.coreAt id).wait = .none →
    (s.coreAt id).strays.find? (fun y => y.issued == x.issued) = some x →
    s.strayWaits r id x.issued x.addr x.size = false → s.memWf →
    let c := (s.run r).ctx
    let far := (s.outsideFar false c outside).far false c
    ∃ t, exec (.untimedCompletion r id (.scalar x.issued) ok outside) s = .next t ∧
      (t.coreAt id).strays = (s.coreAt id).strays.filter (fun y => y.issued != x.issued) ∧
      (∀ k, (t.coreAt k).s = (s.coreAt k).s ∧ (t.coreAt k).p = (s.coreAt k).p ∧ (t.coreAt k).sp = (s.coreAt k).sp) ∧
      (ok = true → x.load = false → ∀ i < x.size, readByte (t.far false c) (x.addr + i) = (leBytes x.size x.v.toNat).getD i 0) ∧
      ∀ a, (ok = true → x.load = false → a < x.addr ∨ x.addr + x.size ≤ a) → readByte (t.far false c) a = readByte far a

/-- R69, R102, R161, R165, R171–R173, R225, R231, R232, R234, R310, R313: transfers and untimed accesses perform (logs 8, 94,
96, 129, 130, 145). -/
def Obligations.TransfersPerform : Prop :=
  Sys2Proof.Claims.beatsAndLandings ∧ Sys2Proof.Claims.completionsPerform ∧ Sys2Proof.Claims.straysPerform

/-! ## Patch and sketch commands -/

namespace Sys2Proof.Claims

/-- The patch words, what they ask for, and whether they name two tensors (R245). -/
def patchWords (g : BitVec 4) (h k a : BitVec 5) : List (Instr × NmuOp × Bool) :=
  [(.papplyAdd g h a, .papplyAdd, false), (.papplySet g h a, .papplySet, false), (.papplyAddw g h a, .papplyAddw, false),
   (.pinv g h a, .pinv, false), (.pdrop g h a, .pdrop, false), (.pcomm g h a, .pcomm, false),
   (.ptrans g h k a, .ptrans, true), (.ptransA g h k a, .ptransA, true), (.psquash g h a, .psquash, false),
   (.psquashX g h a, .psquashX, false), (.pinfo g h a, .pinfo, false), (.plog g h a, .plog, false), (.plogR g h a, .plogR, false)]

/-- The sketch words (R292). -/
def sketchWords (g : BitVec 4) (h k a : BitVec 5) : List (Instr × NmuOp × Bool) :=
  [(.skinit g h a, .skinit, false), (.skupd g h a, .skupd, false), (.skqry g h a, .skqry, false),
   (.skadd g h k a, .skadd, true), (.skaddP g h a, .skaddP, false), (.skscl g h a, .skscl, false),
   (.skopt g h k a, .skopt, true), (.skcpyOut g h a, .skcpyOut, false), (.skcpyIn g h a, .skcpyIn, false),
   (.skcpyS g h k a, .skcpyS, true)]

/-- A command has issued (R246, R247, R293): the descriptor's read stands in flight for t + 6 with the handle images of the
issue, π = t + 600 + W is taken, and nothing else of the core but ports and captured handles changes. -/
def CommandIssued (s t : State) (op : NmuOp) (h : BitVec 5) (work descAt : Nat) : Prop :=
  ∃ c : NmuCmd, s.pends t (s.now + 6) phRead (.accessPerform (.descRead c)) ∧ c.op = op ∧ c.word = s.cur.word ∧
    c.ha = s.me.rh h.toNat ∧ c.work = work ∧ c.descAt = descAt ∧ (s.now + 600 + work) ∈ t.me.pis ∧
    { t.me with ports := s.me.ports, captures := s.me.captures, accessesTill := s.me.accessesTill, pis := s.me.pis } = s.me ∧
    (∀ id, id ≠ s.id → t.coreAt id = s.coreAt id) ∧ t.devs = s.devs ∧ s.sameBytes t

/-- The ports of a command with so many input and output beats are free, and so is its π. -/
def CommandPorts (s : State) (work ins outs : Nat) : Prop :=
  (∀ j < 1 + ins, (portSR, s.now + 6 + j) ∉ s.me.ports) ∧
    (∀ j < outs, (portSW, s.now + 600 + work + 300 + j) ∉ s.me.ports) ∧ s.now + 600 + work ∉ s.me.pis

end Sys2Proof.Claims

/-- R149, R245–R247, R292–R294: a patch or sketch word whose handles are bound to a tensor or a sketch, whose descriptor is
a line of SP, whose work is at most 2^20 and whose last beat falls within the leg issues its command; more work raises the
budget fault, and a handle that is not bound the handle fault (its DETAIL is the model's choice: log 100). -/
def Obligations.NmuCommandsIssue : Prop :=
  ∀ (g : BitVec 4) (h k a : BitVec 5) (s : State), s.cur.early = false →
    let descAt := (s.me.ra a.toNat).toNat
    let size := s.me.ra (a.toNat + 1)
    let work := (size >>> 32).toNat
    let p := size.toNat % 2 ^ 32
    descAt % 64 = 0 → descAt + 64 ≤ 2 ^ 21 →
    (∀ x ∈ patchWords g h k a,
      let log := x.2.1 = .plog ∨ x.2.1 = .plogR
      let pay := x.2.1 = .papplyAdd ∨ x.2.1 = .papplySet ∨ x.2.1 = .papplyAddw
      let outs := if log then max 1 ((p + 1023) / 1024) else 1
      p % 64 = 0 → (log → 64 ≤ p ∧ p ≤ 4032) → (¬log → ¬pay → p = 0) →
      (s.me.isBound h.toNat = true ∧ hIsSketch (s.me.rh h.toNat) = false →
        (x.2.2 = true → s.me.isBound k.toNat = true ∧ hIsSketch (s.me.rh k.toNat) = false) →
        CommandPorts s work (if pay then (p + 1023) / 1024 else 0) outs →
        (work ≤ 2 ^ 20 → s.tick + 600 + work + 300 + (outs - 1) < 2 ^ 22 →
          ∃ t, exec x.1 s = .next t ∧ CommandIssued s t x.2.1 h work descAt) ∧
        (2 ^ 20 < work → ∃ d, exec x.1 s = .next (s.fault 0x33 d))) ∧
      (s.me.isBound h.toNat = false → exec x.1 s = .next (s.fault 0x14 (handleDetail (s.me.rh h.toNat))))) ∧
    ∀ x ∈ sketchWords g h k a,
      let ins := p / 2 ^ 16
      let outs := 1 + p % 2 ^ 16
      (s.me.isBound h.toNat = true ∧ hIsSketch (s.me.rh h.toNat) = true →
        (x.2.2 = true → s.me.isBound k.toNat = true ∧ hIsSketch (s.me.rh k.toNat) = true) →
        CommandPorts s work ins outs →
        (work ≤ 2 ^ 20 → s.tick + 600 + work + 300 + (outs - 1) < 2 ^ 22 →
          (x.2.1 = .skadd ∨ x.2.1 = .skcpyS → sameShape (sketchOf (s.me.rh h.toNat)) (sketchOf (s.me.rh k.toNat)) = true) →
          ∃ t, exec x.1 s = .next t ∧ CommandIssued s t x.2.1 h work descAt) ∧
        (2 ^ 20 < work → ∃ d, exec x.1 s = .next (s.fault 0x23 d))) ∧
      (s.me.isBound h.toNat = false → exec x.1 s = .next (s.fault 0x14 (handleDetail (s.me.rh h.toNat))))

namespace Sys2Proof.Claims

/-- No watchpoint acts on a read of these ranges of HBM, (address, bytes), by a command (R323; log 94). -/
def Unwatched (s : State) (c : NmuCmd) (rs : List (Nat × Nat)) : Prop :=
  ∀ r ∈ rs, s.watchChk c.word .hbm r.1 r.2 false = none

/-- A command may read these ranges: no watchpoint acts on them, and no line of them is poisoned (R310). -/
def Reads (s : State) (c : NmuCmd) (rs : List (Nat × Nat)) : Prop :=
  Unwatched s c rs ∧ ∀ r ∈ rs, s.poisonChk c.word.id (s.ctxW c.word) .hbm r.1 r.2 = none

/-- Each byte of these ranges of a context takes writes (R52, R56), and no other mapped address of the context reaches it. -/
def Takes (s : State) (d ctx : Nat) (rs : List (Nat × Nat)) : Prop :=
  ∀ r ∈ rs, ∀ i < r.2, s.takesByte d ctx (r.1 + i) = true ∧
    ∀ y, (s.page? d ctx y).isSome = true → s.phys d ctx y = s.phys d ctx (r.1 + i) → y = r.1 + i

/-- A command may write these ranges: no watchpoint acts on them, and their bytes take writes. -/
def Writes (s : State) (c : NmuCmd) (rs : List (Nat × Nat)) : Prop :=
  (∀ r ∈ rs, s.watchChk c.word .hbm r.1 r.2 true = none) ∧ Takes s c.word.id.dev (s.ctxW c.word) rs

/-- The record of a command leaves for OUT at π + 300, where OUT names an address. -/
def Records (s t : State) (c : NmuCmd) (out : Nat) (r : BitVec 512) : Prop :=
  out ≠ noAddr → ∃ e ∈ t.agenda, e.at' = s.now + 300 ∧ e.act = .commandRecordWrite c out (recordBytes r) []

/-- A command performs in one step that changes no register of a core and no byte of SP or LOFT; pinfo and plog change no
byte of HBM either; a sketch command with too little work raises the sketch budget fault and changes nothing else; the beats
of a record go into SP one a tick. -/
def commandFrames : Prop :=
  ∀ (c : NmuCmd) (s : State),
    (∀ i ∈ [Instr.patchPerform c, .sketchPerform c], ∃ t, exec i s = .next t ∧ t.now = s.now ∧
      (∀ id, (t.coreAt id).still = (s.coreAt id).still) ∧
      (∀ id x, readByte (t.coreAt id).sp x = readByte (s.coreAt id).sp x ∧
        readByte (t.coreAt id).loft x = readByte (s.coreAt id).loft x)) ∧
    (c.op = .pinfo ∨ c.op = .plog ∨ c.op = .plogR →
      ∃ t, exec (.patchPerform c) s = .next t ∧ s.sameBytes t) ∧
    (c.work < sketchWork c → s.mine c.word = true →
      ∃ d, exec (.sketchPerform c) s = .next (s.raise .nmu c.word true 0x23 d)) ∧
    ∀ (a : Nat) (bs : List Byte) (a2 : Nat) (bs2 : List Byte) (rest : List (Nat × List Byte)),
      (∃ t, exec (.commandRecordWrite c a bs []) s = .next t ∧
        s.pends t s.now phRead (.accessPerform (.store c.word .sp a bs [])) ∧ t.cores = s.cores ∧ t.devs = s.devs) ∧
      ∃ t, exec (.commandRecordWrite c a bs ((a2, bs2) :: rest)) s = .next t ∧ t.cores = s.cores ∧ t.devs = s.devs ∧
        ∃ e ∈ t.agenda, e.at' = s.now + 1 ∧ e.act = .commandRecordWrite c a2 bs2 rest

/-- The counters that a sketch command reads can be read; of a second sketch, read at π − 1, what it read was not poisoned, and
no watchpoint acts on the counters (R293, R310, R323). -/
def CountersReadable (s : State) (c : NmuCmd) : Prop :=
  let seconds := (secondCtrs c).map (fun n => (hBase c.hb + 4 * n, 4))
  c.poison = none ∧ Reads s c ((readCtrs c).map (fun n => (hBase c.ha + 4 * n, 4))) ∧
    (namesTwo c.op = true → Unwatched s c seconds ∧ (hBase c.ha = hBase c.hb → Reads s c seconds))

/-- What a sketch command that has work enough does to the counters I0 to I0 + N − 1 of its sketch, and what it writes:
skcpy.out its counters, 256 to a beat, one beat a tick from π + 301 on. skupd, skqry and skopt are stated for one element, of
which a command of many makes one step after another. -/
def countersChange : Prop :=
  ∀ (c : NmuCmd) (s : State), CountersReadable s c → s.memWf → sketchWork c ≤ c.work →
    let d := c.word.id.dev
    let ctx := s.ctxW c.word
    let k := sketchOf c.ha
    let old (n : Nat) : Int := s.ctrAt d ctx k n
    let given (n : Nat) : Int := intOf .c32 ((inputsOf c).1[n - kI0 c]?.getD 0)
    let other (n : Nat) : Int := if hBase c.ha = hBase c.hb then old n
      else intOf .c32 (leNat ((c.second.drop (4 * (n - kI0 c))).take 4))
    let clamped (i : Int) : Int := max (-2 ^ 31) (min (2 ^ 31 - 1) i)
    let scaled (n : Nat) : Int := (toIntV .rne (intRange .c32) (mulV (valOfInt (old n)) (valOf fF32 (kC c)))).1
    let only (t : State) (n : Nat) (v : Int) : Prop := t.ctrAt d ctx k n = v
    let el := (inputsOf c).2[0]?.getD 0
    (Writes s c [(k.base + 4 * kI0 c, 4 * kN c)] →
      (hBase c.ha ≠ hBase c.hb → c.op = .skadd ∨ c.op = .skcpyS → c.second.length = 4 * kN c) →
      ∀ x ∈ [(NmuOp.skinit, fun _ => (0 : Int)), (.skadd, fun n => clamped (old n + other n)),
          (.skaddP, fun n => clamped (old n + given n)), (.skscl, scaled), (.skcpyIn, given), (.skcpyS, other)],
        c.op = x.1 → ∃ t, exec (.sketchPerform c) s = .next t ∧
          (∀ n, kI0 c ≤ n → n < kI0 c + kN c → only t n (x.2 n)) ∧
          (∀ y, y < k.base + 4 * kI0 c ∨ k.base + 4 * (kI0 c + kN c) ≤ y → t.hbmByte d ctx y = s.hbmByte d ctx y) ∧
          ∃ clamps, Records s t c (kOut c) (sketchRecord (kN c) clamps 0 s.now)) ∧
    (c.op = .skupd → kN c = 1 → 4 ≤ k.k → k.k ≤ 30 → Writes s c ((k.places el).map (fun x => (k.base + 4 * x.1, 4))) →
      ∃ t, exec (.sketchPerform c) s = .next t ∧
        (∀ x ∈ k.places el, only t x.1 (clamped (old x.1 + x.2 * (countOf k.e ((inputsOf c).1[0]?.getD 0)).1))) ∧
        (∀ y, (∀ x ∈ k.places el, y < k.base + 4 * x.1 ∨ k.base + 4 * x.1 + 4 ≤ y) → t.hbmByte d ctx y = s.hbmByte d ctx y) ∧
        ∃ clamps, Records s t c (kOut c) (sketchRecord 1 clamps 0 s.now)) ∧
    (c.op = .skqry → kN c = 1 → ∃ t, exec (.sketchPerform c) s = .next t ∧ s.sameBytes t ∧
      Records s t c (kOut c) (sketchRecord 1 0 0 s.now) ∧
      ∃ e ∈ t.agenda, e.at' = s.now + 301 ∧ e.act = .commandRecordWrite c (kVal c)
        (leBytes 4 (medianOf k.e ((k.places el).map (fun x => x.2 * old x.1))).bits) []) ∧
    (c.op = .skcpyOut → 0 < kN c → ∃ t bs rest, exec (.sketchPerform c) s = .next t ∧ s.sameBytes t ∧
      Records s t c (kOut c) (sketchRecord (kN c) 0 0 s.now) ∧
      (∃ e ∈ t.agenda, e.at' = s.now + 301 ∧ e.act = .commandRecordWrite c (kVal c) bs rest) ∧
      let beats : List (Nat × List Byte) := (kVal c, bs) :: rest
      beats.length = (4 * kN c + 1023) / 1024 ∧ (∀ i < beats.length, (beats.getD i (0, [])).1 = kVal c + 1024 * i) ∧
        ∀ n < kN c, ((beats.getD (n / 256) (0, [])).2.drop (4 * (n % 256))).take 4 =
          leBytes 4 (intBits 32 (old (kI0 c + n)))) ∧
    (c.op = .skopt → kN c = 1 → (hBase c.ha ≠ hBase c.hb → c.second.length = 4 * hD c.hb) →
      let k2 := sketchOf c.hb
      let seen (j n : Nat) : Int := if hBase c.ha = hBase c.hb then old n
        else intOf .c32 (leNat ((c.second.drop (4 * j)).take 4))
      let f (x : Nat) : Val := valOf fF32 x
      let mq := (medianOf k.e ((k.places el).map (fun x => x.2 * old x.1))).bits
      let vq := (medianOf k2.e ((k2.places el).zipIdx.map (fun x => x.1.2 * seen x.2 x.1.1))).bits
      let mh := (rne fF32 (divV (f mq) (f (kBc1 c)))).bits
      let vh := (rne fF32 (divV (f vq) (f (kBc2 c)))).bits
      let root := (rne fF32 (sqrtV (f (if vh / 2 ^ 31 = 1 then 0 else vh)))).bits
      let den := (rne fF32 (addV .rne (f root) (f (kEps c)))).bits
      let last := rne fF32 (mulV (negV (f (kLr c))) (f (rne fF32 (divV (f mh) (f den))).bits))
      (den ≠ 0 → last.nan = false) →
      ∃ t, exec (.sketchPerform c) s = .next t ∧ s.sameBytes t ∧
        Records s t c (kOut c) (sketchRecord 1 0 (if den = 0 then 1 else 0) s.now) ∧
        ∃ e ∈ t.agenda, e.at' = s.now + 301 ∧ e.act = .commandRecordWrite c (kVal c)
          (leBytes 4 (if den = 0 then 0 else last.bits)) [])

/-- An element's value after the patches of a chain, over its value in the base image (R242). -/
def foldAt (s : State) (c : NmuCmd) (t : Tensor) (ch : List Patch) (e : Nat) : Nat :=
  (foldElem t e ⟨s.elemAt c.word.id.dev (s.ctxW c.word) t t.image e, 0, [], []⟩ 1 ch).x

/-- The elements of a box in a tensor's view, as ranges. -/
def viewOf (t : Tensor) (box : Box) : List (Nat × Nat) := elemRanges t t.base (boxElems t box)

/-- A command may read a tensor's log area, it may write the area's slots and payload store and the elements of a box, and those
lie apart from the area. -/
def Roomy (s : State) (c : NmuCmd) (t : Tensor) (box : Box) : Prop :=
  Reads s c [(t.log, 4096 + 4 * t.ext)] ∧ Writes s c ((t.log, 4096) :: (t.store, 3 * t.ext) :: viewOf t box) ∧
    ∀ r ∈ viewOf t box, r.1 + r.2 ≤ t.log ∨ t.log + 4096 + 4 * t.ext ≤ r.1

/-- A patch command has performed (R239, R246, R248): the log area's header and slots hold the new chain and the payload store
its values, the view holds what they fold to over the box, no other byte of HBM but in the payload store changes, the base
image included, and the record says so. -/
def Changed (s t : State) (c : NmuCmd) (x : Tensor) (new : List Patch) (view : Nat → Nat) (changed : Nat) : Prop :=
  let d := c.word.id.dev
  let ctx := s.ctxW c.word
  t.readHbm d ctx x.log 4096 = slotsOf x new ∧
    (∀ p ∈ new, t.readHbm d ctx (x.store + p.off) (boxSize p.box * valWidth x p.kind) = bytesOf (valWidth x p.kind) p.vals) ∧
    (∀ e ∈ boxElems x (boxOf c.desc), t.elemAt d ctx x x.base e = view e % 256 ^ x.w) ∧
    (∀ y, y < x.log ∨ x.image ≤ y ∧ y < x.store ∨ x.log + 4096 + 4 * x.ext ≤ y →
      (∀ e ∈ boxElems x (boxOf c.desc), y < x.base + x.w * e ∨ x.base + x.w * e + x.w ≤ y) →
      t.hbmByte d ctx y = s.hbmByte d ctx y) ∧
    Records s t c (dOut c) (patchRecord 0 changed new.length s.now)

/-- What a patch command whose checks pass does to the chain and the view of its tensor, and what it does where its new tag is
live or the patch it names is not. -/
def chainsChange : Prop :=
  ∀ (c : NmuCmd) (s : State) (ch : List Patch), s.memWf →
    let d := c.word.id.dev
    let ctx := s.ctxW c.word
    let x := tensorOf (targetHandle c)
    let box := boxOf c.desc
    let view (new : List Patch) (e : Nat) : Nat := foldAt s c x new e
    let count (es : List Nat) (a b : Nat → Nat) : Nat := (es.filter (fun e => a e != b e)).length
    let shown (e : Nat) : Nat := s.elemAt d ctx x x.base e
    let refolds (new : List Patch) : Prop := refoldWork x box (new.map (·.box)) ≤ c.work ∧
      (refoldFrom x new 1 (s.elemAt d ctx x x.image) (boxElems x box)).nans = []
    s.chainOf d ctx x = some ch →
    (x.frozen = false → Roomy s c x box →
      (∀ m ∈ [(NmuOp.papplyAdd, 0), (.papplyAddw, 1), (.papplySet, 2)], c.op = m.1 → findTag ch (dTag c) = none →
        c.poison = none → Reads s c (viewOf x box) →
        ch.length < x.depth → c.pbytes / 64 ≤ c.work → (m.2 ≠ 2 → (fmtOf x.tag).isSome = true) →
        ∀ off, alloc x ch (spanSize x m.2 box) = some off →
        let p : Patch := ⟨dTag c, m.2, c.region.toNat, box, off, valuesOf (valWidth x m.2) (boxSize box) c.input,
          if m.2 = 2 then ((boxElems x box).map shown).toArray else #[]⟩
        let step (e : Nat) : Fold := foldStep x e ⟨shown e, 0, [], []⟩ (ch.length + 1) p
        (∀ e ∈ boxElems x box, (step e).nans = []) →
        ∃ t, exec (.patchPerform c) s = .next t ∧ Changed s t c x (ch ++ [p]) (fun e => (step e).x) 0) ∧
      (∀ i p, findTag ch (dTag c) = some i → ch[i]? = some p → boxWithin p.box box = true →
        (c.op = .pdrop → refolds (ch.eraseIdx i) →
          ∃ t, exec (.patchPerform c) s = .next t ∧ Changed s t c x (ch.eraseIdx i) (view (ch.eraseIdx i)) 0) ∧
        (c.op = .pinv → findTag ch (dNtag c) = none → ch.length < x.depth →
          ∀ off, alloc x ch (spanSize x p.kind p.box) = some off →
          let new := insertAfter ch i (inversePatch x c p off)
          refolds new → ∃ t, exec (.patchPerform c) s = .next t ∧
            Changed s t c x new (view new) (count (boxElems x p.box) (view new) (view (ch.eraseIdx i)))) ∧
        (c.op = .pcomm → ∀ q, findTag ch (dTag2 c) = some (i + 1) → ch[i + 1]? = some q → boxWithin q.box box = true →
          commutes p q = true →
          let new := ch.take i ++ q :: p :: ch.drop (i + 2)
          refolds new → ∃ t, exec (.patchPerform c) s = .next t ∧
            Changed s t c x new (view new) (count (boxElems x box) shown (view new)))) ∧
      (c.op = .psquash ∨ c.op = .psquashX → ∀ i j, findTag ch (dTag c) = some i → findTag ch (dTag2 c) = some j → i ≤ j →
        let run := (ch.drop i).take (j + 1 - i)
        let kept := ch.take i ++ ch.drop (j + 1)
        let hull := run.foldl (fun b p => boxHull b p.box) ((run.head?.map (·.box)).getD [])
        let adds := run.all (fun q => q.kind != 2)
        boxWithin hull box = true → findTag kept (dNtag c) = none →
        ∀ off, alloc x kept (spanSize x (if adds then 1 else 2) hull) = some off →
        let folded (e : Nat) : Fold := if adds then squashSum x e ⟨0x80000000, 0, [], []⟩ (i + 1) run
          else foldElem x e ⟨s.elemAt d ctx x x.image e, 0, [], []⟩ 1 (ch.take (j + 1))
        let p : Patch := ⟨dNtag c, if adds then 1 else 2, c.region.toNat, hull, off,
          ((boxElems x hull).map (fun e => (folded e).x)).toArray, #[]⟩
        let new := ch.take i ++ p :: ch.drop (j + 1)
        let changed := count (boxElems x box) shown (view new)
        (∀ e ∈ boxElems x hull, (folded e).nans = []) → refolds new →
        (c.op = .psquash ∨ changed = 0 → ∃ t, exec (.patchPerform c) s = .next t ∧ Changed s t c x new (view new) changed) ∧
        (c.op = .psquashX → changed ≠ 0 →
          exec (.patchPerform c) s = .next (s.raise .nmu c.word true 0x36 (patchDetail x.tid 0 0 changed)))) ∧
      (c.op = .ptrans ∨ c.op = .ptransA → findTag ch (dNtag c) = none → c.poison = none → c.second.length ≠ 1 →
        Unwatched s c ((copyTouched c).map (fun r => (r.1, r.2.1))) → ∀ p, copiedPatch c = some p →
        (tensorOf c.ha).tag = x.tag → boxOk x p.box = true → boxWithin p.box box = true → ch.length < x.depth →
        ∀ off, alloc x ch (spanSize (tensorOf c.ha) p.kind p.box) = some off →
        let copy : Patch := ⟨dNtag c, p.kind, c.region.toNat, p.box, off, p.vals, if p.kind = 2 then p.vals else #[]⟩
        (c.op = .ptrans → refolds (ch ++ [copy]) →
          ∃ t, exec (.patchPerform c) s = .next t ∧ Changed s t c x (ch ++ [copy]) (view (ch ++ [copy])) 0) ∧
        (c.op = .ptransA → ∀ i, findTag ch (dTag2 c) = some i →
          let new := insertAfter ch i copy
          ((∀ q ∈ ch.drop (i + 1), commutes copy q = true) → refolds new →
            ∃ t, exec (.patchPerform c) s = .next t ∧ Changed s t c x new (view new) 0) ∧
          ∀ q, (ch.drop (i + 1)).find? (fun q => !commutes copy q) = some q →
            exec (.patchPerform c) s = .next (s.raise .nmu c.word true 0x30 (patchDetail x.tid (dNtag c) q.tag 0))) ∧
        (c.op = .ptransA → findTag ch (dTag2 c) = none →
          exec (.patchPerform c) s = .next (s.raise .nmu c.word true 0x31 (patchDetail x.tid (dTag2 c) 0 0))))) ∧
    (Reads s c [areaOf x ch.length] →
      (c.op = .pinfo → ∃ t, exec (.patchPerform c) s = .next t ∧ s.sameBytes t ∧ Records s t c (dOut c)
        (((ch.zipIdx.find? (fun p => p.1.tag == dTag c)).map (fun p => slotBits p.1 (p.2 + 1) 0)).getD absentSlot)) ∧
      (c.op = .plog → 64 ≤ c.pbytes → dOut c ≠ noAddr → ∃ t, exec (.patchPerform c) s = .next t ∧ s.sameBytes t ∧
        ∃ e ∈ t.agenda, e.at' = s.now + 300 ∧ ∃ bs rest, e.act = .commandRecordWrite c (dOut c) bs rest ∧
          ∀ i < min 16 (c.pbytes / 64), (bs.drop (64 * i)).take 64 =
            recordBytes ((ch[i]?.map (fun p => slotBits p (i + 1) 0)).getD absentSlot)) ∧
      (c.op = .plogR → 64 ≤ c.pbytes → dOut c ≠ noAddr → ∃ t, exec (.patchPerform c) s = .next t ∧ s.sameBytes t ∧
        let listed := ch.zipIdx.filter (fun p => p.1.rgn == dTag2 c % 2 ^ 13)
        ∃ e ∈ t.agenda, e.at' = s.now + 300 ∧ ∃ bs rest, e.act = .commandRecordWrite c (dOut c) bs rest ∧
          ∀ i < min 16 (c.pbytes / 64), (bs.drop (64 * i)).take 64 =
            recordBytes ((listed[i]?.map (fun p => slotBits p.1 (p.2 + 1) 0)).getD absentSlot))) ∧
    (((c.op = .papplyAdd ∨ c.op = .papplyAddw ∨ c.op = .papplySet) ∧ (findTag ch (dTag c)).isSome = true ∨
        (c.op = .pinv ∨ c.op = .ptrans ∨ c.op = .ptransA) ∧ (findTag ch (dNtag c)).isSome = true) →
      Reads s c [areaOf x ch.length] → Unwatched s c ((copyTouched c).map (fun r => (r.1, r.2.1))) →
      ∃ t, exec (.patchPerform c) s = .next t ∧ s.sameBytes t ∧
        Records s t c (dOut c) (patchRecord 1 0 ch.length s.now)) ∧
    (c.op = .pdrop ∨ c.op = .pcomm ∨ c.op = .psquash ∨ c.op = .psquashX ∨ c.op = .pinv ∧ findTag ch (dNtag c) = none →
      findTag ch (dTag c) = none → Reads s c [areaOf x ch.length] →
      exec (.patchPerform c) s = .next (s.raise .nmu c.word true 0x31 (patchDetail x.tid (dTag c) 0 0)))

end Sys2Proof.Claims

/-- R69, R79, R239, R242, R246, R248–R254, R289, R293, R295–R302: patch and sketch commands perform at π, also where their
itinerary has retired since: what they write into chains, views, counters and records, and what they leave alone
(which tag an unknown-tag record of psquash names: log 155). -/
def Obligations.NmuCommandsPerform : Prop :=
  Sys2Proof.Claims.commandFrames ∧ Sys2Proof.Claims.countersChange ∧ Sys2Proof.Claims.chainsChange

/-! ## The fabric -/

namespace Sys2Proof.Claims

/-- One element of a collective's result over the contributions' elements: of a single one that element, a NaN being quiet
(R123, R139, R269, R270). -/
def reduced (op : CollOp) (xs : List Nat) : Nat :=
  let leaves := match xs with
    | [x] => [(rne fF32 (valOf fF32 x)).bits]
    | xs => xs
  let combined (f : Val → Val → Val) : Nat :=
    (tree (fun a b => (rne fF32 (f (valOf fF32 a) (valOf fF32 b))).bits) xs.length leaves).headD 0
  match op with
  | .sumF32 => combined (addV .rne)
  | .maxF32 => combined maxV
  | .sumC32 => intBits 32 (max (-2 ^ 31) (min (2 ^ 31 - 1) ((xs.map (intOf .c32)).foldl (· + ·) 0)))

/-- A result flit holds the elements of a collective over contributions, and their flags (R139, R270). -/
def ReducedFlit (op : CollOp) (parts : List (List Byte)) (out : List Byte) (fl : BitVec 5) : Prop :=
  let lanes (k : Nat) : List Nat := parts.map (fun b => leNat ((b.drop (4 * k)).take 4))
  out.length = 256 ∧ (∀ k < 64, leNat ((out.drop (4 * k)).take 4) = reduced op (lanes k)) ∧
    fl = (List.range 64).foldl (fun m k => m ||| (collElem op (lanes k)).2) 0

end Sys2Proof.Claims

/-- R78, R163, R267–R270: send of no bytes has no effect; another whose reads meet no taken port tick reads its first flit at
issue and sends it to every device that holds a destination, and one whose reads meet one raises port conflict; recv clears
a tracker that holds exactly what the herd promised and else raises landing miss; coll leaves its contribution: the root
keeps it and will reduce, a member's flit leaves for the root at its tick, and a herd of one has its result after 12 ticks, its
elements as they are but for a NaN, which is quiet and sets its flag (R123). A word of a core outside the herd raises the herd
fault, whatever else meets its ports (log 71). -/
def Obligations.FabricWordsIssue : Prop :=
  ∀ (g : BitVec 4) (h : BitVec 8) (a : BitVec 5) (n k : BitVec 4) (s : State), s.cur.early = false →
    let src := (s.me.ra a.toNat).toNat
    let dst := (s.me.ra (a.toNat + 1)).toNat
    let len := (s.me.rn n.toNat).toNat
    let dests := (s.herdMembers h.toNat).filter (fun x => x.2 != s.id)
    let herd := s.herd s.id h.toNat
    (src % 64 = 0 → dst % 64 = 0 → len % 256 = 0 → len ≤ 16384 →
      (dests ≠ [] → len = 0 → exec (.send g h a n k) s = .next s) ∧
      (dests = [] → (len = 0 ∨ (src + len ≤ 2 ^ 21 ∧ dst + len ≤ 2 ^ 21)) →
        (∀ j < len / 256, (portSR, s.now + 4 * j) ∉ s.me.ports) → exec (.send g h a n k) s = .next (s.fault 0x57 0)) ∧
      (len ≠ 0 → src + len ≤ 2 ^ 21 → dst + len ≤ 2 ^ 21 → (∃ j < len / 256, (portSR, s.now + 4 * j) ∈ s.me.ports) →
        exec (.send g h a n k) s = .next (s.fault 0x15 0)) ∧
      (dests ≠ [] → len ≠ 0 → src + len ≤ 2 ^ 21 → dst + len ≤ 2 ^ 21 →
        (∀ j < len / 256, (portSR, s.now + 4 * j) ∉ s.me.ports) → s.watchChk s.cur.word .sp src 256 false = none →
        ∃ t, exec (.send g h a n k) s = .next t ∧
          (∀ x ∈ dests, ∃ e ∈ t.agenda, ∃ dev l hops cores poison, e.act = .flitArrival dev l (.enter s.cur.word s.id.dev hops
            (.send cores dst (readBytes s.me.sp src 256) poison k.toNat)) ∧ x.2 ∈ cores) ∧
          { t.me with ports := s.me.ports, accessesTill := s.me.accessesTill, unlandedTill := s.me.unlandedTill } = s.me ∧
          s.sameBytes t) ∧
      ∀ i ∈ [(Instr.collSumF32 g h a n, CollOp.sumF32), (.collSumC32 g h a n, .sumC32), (.collMaxF32 g h a n, .maxF32)],
        (s.id ∈ herd → len = 0 → exec i.1 s = .next s) ∧
        (s.id ∉ herd → (len = 0 ∨ (src + len ≤ 2 ^ 21 ∧ dst + len ≤ 2 ^ 21)) →
          exec i.1 s = .next (s.fault 0x57 0)) ∧
        (s.id ∈ herd → len ≠ 0 → src + len ≤ 2 ^ 21 → dst + len ≤ 2 ^ 21 →
          let mates := s.herdMembers h.toNat
          let index := mates.findIdx (fun x => x.2 == s.id)
          let pace := if index = 0 then 4 else 4 * (mates.length - 1)
          let hc := (mates.map (fun x => s.latency ((mates.head?.map (·.2)).getD s.id).dev x.2.dev)).foldl max 48
          let got := readBytes s.me.sp src 256
          (∀ j < len / 256, (portSR, s.now + 4 * (index - 1) + pace * j) ∉ s.me.ports) →
          s.poisonChk s.id 0 .sp src 256 = none → s.watchChk s.cur.word .sp src 256 false = none →
          ∃ t job, exec i.1 s = .next t ∧ job.op = i.2 ∧ job.src = src ∧ job.dst = dst ∧ job.n = len ∧ job.index = index ∧
            job.issued = s.tick ∧
            (1 < mates.length → index = 0 → t.me.colls = ⟨job, 0, got⟩ :: s.me.colls ∧
              ∃ e ∈ t.agenda, e.at' = s.now + 4 * (mates.length - 1) + hc ∧ e.act = .collReduce s.cur.word job 0) ∧
            (index = 1 → ∀ x ∈ mates.head?, ∃ e ∈ t.agenda, ∃ dev l hops,
              e.act = .flitArrival dev l (.enter s.cur.word s.id.dev hops (.coll x.2 1 job 0 got))) ∧
            (1 < index → ∃ e ∈ t.agenda, e.at' = s.now + 4 * (index - 1) ∧
              e.act = .accessPerform (.collRead s.cur.word job 0)) ∧
            (mates.length = 1 → ∃ out fl, ReducedFlit i.2 [got] out fl ∧ ∃ e ∈ t.agenda, e.at' = s.now + 12 ∧
              e.act = .collResultWrite s.cur.word s.id dst out fl) ∧
            (index ≠ 0 ∨ mates.length = 1 → t.me.colls = s.me.colls) ∧
            { t.me with ports := s.me.ports, accessesTill := s.me.accessesTill, unlandedTill := s.me.unlandedTill,
                        colls := s.me.colls } = s.me ∧ s.sameBytes t)) ∧
    (len % 256 = 0 → herd ≠ [] →
      ((vget 0 s.me.tr k.toNat).toNat = len / 256 * (herd.filter (fun x => x != s.id)).length →
        ∃ t, exec (.recv g h n k) s = .next t ∧
          (∀ i : BitVec 4, vget 0 t.me.tr i.toNat = if i = k then 0 else vget 0 s.me.tr i.toNat) ∧
          { t.me with tr := s.me.tr } = s.me ∧ s.onlyMe t ∧ s.sameBytes t) ∧
      ((vget 0 s.me.tr k.toNat).toNat ≠ len / 256 * (herd.filter (fun x => x != s.id)).length →
        exec (.recv g h n k) s = .next (s.fault 0x06 0)))

namespace Sys2Proof.Claims

/-- R139, R265, R269, R270: a reduction that has all its contributions combines them element by element in the order of the
members; a result flit for each member's device carries those bits and their flags: it leaves 8 ticks later, is on the root's
own device 48 ticks after that, and is to be written 8 ticks and the largest latency later; the next flit's reduction follows,
and no register but the root's received contributions changes. -/
def reductionsPerform : Prop :=
  ∀ (w : WordRef) (j : CollJob) (f : Nat) (xs : List Contribution) (s : State),
    s.mine w = true → xs.length = j.members.length →
    (∀ (i : Nat) (hi : i < xs.length), contribution (s.coreAt w.id) j f i = some xs[i] ∧ xs[i].bytes.length = 256) →
    ∃ t out fl, exec (.collReduce w j f) s = .next t ∧ t.devs = s.devs ∧ s.sameBytes t ∧
      { t.coreAt w.id with colls := (s.coreAt w.id).colls } = s.coreAt w.id ∧ (∀ y, y ≠ w.id → t.coreAt y = s.coreAt y) ∧
      ReducedFlit j.op (xs.map (·.bytes)) out fl ∧
      (256 * (f + 1) < j.n → ∃ e ∈ t.agenda, e.at' = s.now + 4 * (j.members.length - 1) ∧ e.act = .collReduce w j (f + 1)) ∧
      ∀ x ∈ (j.members.map (·.2)).zip xs, ∃ e ∈ t.agenda, ∃ dev l hops dests, e.act = .flitArrival dev l
          (.enter w w.id.dev hops (.collResult dests (s.now + 8 + j.hc) out fl)) ∧
        (x.2.job.word, x.2.job.dst + 256 * f) ∈ dests ∧
        (x.1.dev = w.id.dev → e.at' = s.now + 56 ∧ dev = w.id.dev ∧ hops = []) ∧
        (x.1.dev ≠ w.id.dev → (s.route? w.id.dev x.1.dev).any (fun r => !r.hops.isEmpty) = true → e.at' = s.now + 8)

end Sys2Proof.Claims

/-- R261, R264, R266, R269, R270, R273, R308: a flit that has come to its device is to land on each of its cores, or to be
written at its count; a flit that lands writes its bytes into SP and counts on its tracker, which saturates; a result flit of
a collective on which no watchpoint of the core acts (log 94) writes its bytes and joins its flags; neither touches a core
that has left the itinerary (log 65) or is halted. A data flit enters a link that is up unless another entered it within 4
ticks, which raises link-slot conflict at the device where it would enter, and comes to the link's far end a hop latency
later; on a link that is down it is lost. So is every flit that comes to an end which has ceased to take flits while its link
is up: that an end does so, 64 ticks before it goes down, is the model's choice (log 67). A flit that has come over a link and
is to go on enters its next link 64 ticks later, be it by the end that it came to. An offset of more than 3 ticks raises drift
limit (a data flit's offset is the one that the link shows: log 57). A reduction that has its contributions gives their sum or
maximum to every member; one that lacks a contribution raises landing miss; a contribution is one of the same leg, op, N and
issue tick. -/
def Obligations.FabricStepsPerform : Prop :=
  Sys2Proof.Claims.reductionsPerform ∧
  ∀ (w : WordRef) (x : CoreId) (a : Nat) (bs : List Byte) (p : List Nat) (k : BitVec 4) (fl : BitVec 5) (d src : Nat)
    (l : BitVec 5) (c : Cargo) (rest : List (Nat × Nat)) (ofs : Int) (j : CollJob) (f : Nat) (s : State),
    let enters : FlitBody := .enter w src ((d, l.toNat) :: rest) c
    let drifted (ofs : Int) (v : BitVec 256) : State :=
      (s.modLink d l.toNat (fun x => { x with ofs := BitVec.ofInt 8 ofs })).deviceFault d 0x0A .link v
    (∀ (cs : List CoreId) (dests : List (WordRef × Nat)) (tt : Nat),
      (∃ t, exec (.flitArrival d 18 (.enter w src [] (.send cs a bs p k.toNat))) s = .next t ∧ t.cores = s.cores ∧ t.devs = s.devs ∧
        ∀ y ∈ cs, ∃ e ∈ t.agenda, e.at' = s.now ∧ e.act = .flitLanding w y a bs p k.toNat) ∧
      ∃ t, exec (.flitArrival d 18 (.enter w src [] (.collResult dests tt bs fl))) s = .next t ∧ t.cores = s.cores ∧
        t.devs = s.devs ∧ (∀ y ∈ dests, ∃ e ∈ t.agenda, e.at' = tt ∧ e.act = .collResultWrite y.1 y.1.id y.2 bs fl) ∧
        (s.deaf d l.toNat = false → (s.link d l.toNat).ofs.toInt.natAbs ≤ 48 →
          (∃ t, exec (.flitArrival d l.toNat (.arrive w src [] (.send cs a bs p k.toNat))) s = .next t ∧ t.cores = s.cores ∧
            t.runs = s.runs ∧ ∀ y ∈ cs, ∃ e ∈ t.agenda, e.at' = s.now ∧ e.act = .flitLanding w y a bs p k.toNat) ∧
          ∃ t, exec (.flitArrival d l.toNat (.arrive w src [] (.collResult dests tt bs fl))) s = .next t ∧ t.cores = s.cores ∧
            t.runs = s.runs ∧ ∀ y ∈ dests, ∃ e ∈ t.agenda, e.at' = tt ∧ e.act = .collResultWrite y.1 y.1.id y.2 bs fl)) ∧
    (s.lands w x = false → exec (.flitLanding w x a bs p k.toNat) s = .next s ∧
      exec (.collResultWrite w x a bs fl) s = .next s) ∧
    (s.lands w x = true → s.memWf →
      (∃ t, exec (.flitLanding w x a bs p k.toNat) s = .next t ∧
        (∀ (i : Nat) (hi : i < bs.length), readByte (t.coreAt x).sp (a + i) = bs[i]) ∧
        (∀ y, y < a ∨ a + bs.length ≤ y → readByte (t.coreAt x).sp y = readByte (s.coreAt x).sp y) ∧
        (∀ i : BitVec 4, (vget 0 (t.coreAt x).tr i.toNat).toNat =
          if i = k then min 65535 ((vget 0 (s.coreAt x).tr i.toNat).toNat + 1) else (vget 0 (s.coreAt x).tr i.toNat).toNat) ∧
        { t.coreAt x with sp := (s.coreAt x).sp, spPoison := (s.coreAt x).spPoison, tr := (s.coreAt x).tr } = s.coreAt x ∧
        ∀ y, y ≠ x → t.coreAt y = s.coreAt y) ∧
      (x = w.id → s.watchChk w .sp a bs.length true = none →
        ∃ t, exec (.collResultWrite w x a bs fl) s = .next t ∧
        (∀ (i : Nat) (hi : i < bs.length), readByte (t.coreAt x).sp (a + i) = bs[i]) ∧
        (∀ y, y < a ∨ a + bs.length ≤ y → readByte (t.coreAt x).sp y = readByte (s.coreAt x).sp y) ∧
        (t.coreAt x).flagsNmu = (s.coreAt x).flagsNmu ||| fl ∧
        (∀ y, y ≠ x → t.coreAt y = s.coreAt y) ∧ { t with cores := s.cores } = s)) ∧
    (l.toNat < 18 → (s.link d l.toNat).up = true →
      (∀ t0, (s.link d l.toNat).lastEntry = some t0 → t0 + 4 ≤ s.now) →
      ∃ t, exec (.flitArrival d l.toNat enters) s = .next t ∧
        (t.link d l.toNat).lastEntry = some s.now ∧ t.cores = s.cores ∧
        ∃ e ∈ t.agenda, e.at' = s.now + hopLatency (s.link d l.toNat) ∧ e.act = .flitArrival
          (s.link d l.toNat).pdev.toNat (s.link d l.toNat).plink.toNat (.arrive w src rest c)) ∧
    exec (.flitArrival d l.toNat (.relay w src ((d, l.toNat) :: rest) c)) s = exec (.flitArrival d l.toNat enters) s ∧
    ((s.link d l.toNat).up = true → (∃ t0, (s.link d l.toNat).lastEntry = some t0 ∧ s.now < t0 + 4) →
      ∃ v, exec (.flitArrival d l.toNat enters) s = .next (s.raiseOn d .ax w true 0x41 v)) ∧
    ((s.link d l.toNat).up = false → exec (.flitArrival d l.toNat enters) s = .next s) ∧
    (s.deaf d l.toNat = true → exec (.flitArrival d l.toNat (.control ofs)) s = .next s ∧
      exec (.flitArrival d l.toNat (.arrive w src rest c)) s = .next s) ∧
    (s.deaf d l.toNat = false →
      (l.toNat < 18 → ofs.natAbs ≤ 48 →
        ∃ t, exec (.flitArrival d l.toNat (.control ofs)) s = .next t ∧ (t.link d l.toNat).ofs = BitVec.ofInt 8 ofs ∧
          t.cores = s.cores ∧ t.runs = s.runs ∧ t.agenda = s.agenda) ∧
      (48 < ofs.natAbs → ∃ v, exec (.flitArrival d l.toNat (.control ofs)) s = .next (drifted ofs v)) ∧
      ∀ hop, rest.head? = some hop →
        let shown := (s.link d l.toNat).ofs.toInt
        (shown.natAbs ≤ 48 → ∃ t, exec (.flitArrival d l.toNat (.arrive w src rest c)) s = .next t ∧
          t.cores = s.cores ∧ t.runs = s.runs ∧
          ∃ e ∈ t.agenda, e.at' = s.now + 64 ∧ e.act = .flitArrival hop.1 hop.2 (.relay w src rest c)) ∧
        (48 < shown.natAbs → ∃ v, exec (.flitArrival d l.toNat (.arrive w src rest c)) s =
          .next ((drifted shown v).schedAt (s.now + 64) phLand src w.id.core w.issue
            (.flitArrival hop.1 hop.2 (.relay w src rest c))))) ∧
    (s.mine w = true → (∃ i < j.members.length, contribution (s.coreAt w.id) j f i = none) →
      exec (.collReduce w j f) s = .next (s.raise w.eng w true 0x06 0)) ∧
    ∀ i y, contribution (s.coreAt w.id) j f i = some y →
      y ∈ (s.coreAt w.id).colls ∧ y.f = f ∧ y.job.index = i ∧ y.job.herd = j.herd ∧ y.job.word.leg = j.word.leg ∧
        y.job.op = j.op ∧ y.job.n = j.n ∧ y.job.issued = j.issued

/-- What a beat has read at its target: n bytes, of which those that a page maps there are the page's. -/
def Sys2Proof.Claims.ReadThere (s : State) (x : CoreId) (ctx a n : Nat) (bytes : List Byte) : Prop :=
  bytes.length = n ∧ ∀ i < n, (s.page? x.dev ctx (a + i)).isSome = true → bytes.getD i 0 = s.hbmByte x.dev ctx (a + i)

/-- R148, R168, R271, R310: a request that reaches its target reads HBM there and sends its answer back; where the target does
not have the page, or has an executable one there (log 101), or the handle of the same number is not bound, the fault is due
at the issuing core: of cp.peer.sp at the first write tick of its SP, of qfd.peer, which writes none, at the ready tick of its
entry 0 by the model's choice (log 142). A beat of a feed that is poisoned there raises poison consumed. Bytes that no page
maps at the target are free values by the model's choice (log 143). No register and no byte changes. -/
def Sys2Proof.Claims.peerRequestsPerform : Prop :=
  ∀ (w : WordRef) (x : CoreId) (a size : Nat) (dst : LoadDst) (lat : Nat) (c : CopyJob) (f : FeedJob) (j b : Nat)
    (got : List Byte) (s : State),
    ((s.pagesOf x.dev (s.ctxW w) a size).isNone = true →
      ∃ t v, exec (.peerRequest w (.load x a size dst lat)) s = .next t ∧ t.cores = s.cores ∧ t.devs = s.devs ∧
        s.pends t (s.now + 460 + lat) phControl (.leasedResult w (.fault 0x12 v))) ∧
    (∀ pages, s.pagesOf x.dev (s.ctxW w) a size = some pages → (∃ p ∈ pages, p.exec.isSome = true) →
      ∃ t v, exec (.peerRequest w (.load x a size dst lat)) s = .next t ∧ t.cores = s.cores ∧ t.devs = s.devs ∧
        s.pends t (s.now + 460 + lat) phControl (.leasedResult w (.fault 0x13 v))) ∧
    (∀ pages, s.pagesOf x.dev (s.ctxW w) a size = some pages → (∀ p ∈ pages, p.exec.isSome = false) → s.mine w = true →
      s.poisonChk x (s.ctxW w) .hbm a size = none → s.watchChk w .peer (s.peerAddr w x a) size false = none →
      ∃ t, exec (.peerRequest w (.load x a size dst lat)) s = .next t ∧ t.cores = s.cores ∧ t.devs = s.devs ∧
        ∃ e ∈ t.agenda, ∃ dev l hops, e.act = .flitArrival dev l (.enter w x.dev hops (.peerResponse []
          (some (dst, BitVec.ofNat 64 (leNat (s.readHbm x.dev (s.ctxW w) a size))))))) ∧
    (let off := c.sAddr + c.beat * j
     let n := min c.beat (c.len - c.beat * j)
     let first := s.now + 300 + c.h - c.step * j
     c.target = some x →
      ((s.coreAt x).isBound c.handle = false → ∃ t v, exec (.peerRequest w (.copy c j)) s = .next t ∧ t.cores = s.cores ∧
        t.devs = s.devs ∧ ∃ e ∈ t.agenda, e.act = .leasedResult w (.fault 0x14 v) ∧
          e.at' = if s.now < first then first else s.now + 300 + c.h) ∧
      ((s.coreAt x).isBound c.handle = true → s.mine w = true → s.watchChk w .peer (s.peerAddr w x off) n false = none →
        ∃ t bytes, exec (.peerRequest w (.copy c j)) s = .next t ∧ t.cores = s.cores ∧ t.devs = s.devs ∧
          ReadThere s x (s.ctxW w) (hBase ((s.coreAt x).rh c.handle) + off) n bytes ∧
          ∃ e ∈ t.agenda, ∃ dev l hops poison, e.act = .flitArrival dev l (.enter w x.dev hops (.peerResponse
            [(0, .store w c.dst (c.dAddr + c.beat * j) bytes poison)] none)))) ∧
    (let off := f.addr + 4096 * j + f.beat * b
     let a := hBase ((s.coreAt x).rh f.handle) + off
     f.target = some x →
      ((s.coreAt x).isBound f.handle = false → b < 16 → ∃ t v, exec (.peerRequest w (.feed f j b got)) s = .next t ∧
        t.cores = s.cores ∧ t.devs = s.devs ∧ ∃ e ∈ t.agenda, e.act = .leasedResult w (.fault 0x14 v) ∧
          (j = 0 → e.at' = s.now + 301 + f.h + f.step * (15 - b))) ∧
      ((s.coreAt x).isBound f.handle = true → s.mine w = true →
        (s.peerPoison x (s.ctxW w) a f.beat ≠ [] →
          ∃ v, exec (.peerRequest w (.feed f j b got)) s = .next (s.raise w.eng w true 0x42 v)) ∧
        (s.peerPoison x (s.ctxW w) a f.beat = [] → s.watchChk w .peer (s.peerAddr w x off) f.beat false = none →
          ∃ t bytes, exec (.peerRequest w (.feed f j b got)) s = .next t ∧ t.cores = s.cores ∧ t.devs = s.devs ∧
            ReadThere s x (s.ctxW w) a f.beat bytes ∧
            ∃ e ∈ t.agenda, ∃ dev l hops, e.act = .flitArrival dev l (.enter w x.dev hops (.peerResponse
              [(0, .feedRead w f j b bytes)] none)))))

/-- R165, R168: the flits of an entry of qfd.peer arrive in order: with the first one the entry takes its place in its queue,
ready when its last one has arrived and a tick has passed; each brings its 256 bytes, and with the last one the entry stands
in column order where the feed asks for it. -/
def Sys2Proof.Claims.peerFeedsArrive : Prop :=
  ∀ (w : WordRef) (f : FeedJob) (j b : Nat) (bs : List Byte) (s : State), s.mine w = true → f.target.isSome = true →
    f.q < 8 → b < 16 → bs.length = 256 →
    let ready := s.now + f.step * (15 - b) + 1
    let old := vget [] (s.coreAt w.id).q f.q
    let part : Image := ofBytes bs <<< (2048 * b)
    ∃ t, exec (.accessPerform (.feedRead w f j b bs)) s = .next t ∧
      { t.coreAt w.id with q := (s.coreAt w.id).q } = s.coreAt w.id ∧ s.sameBytes t ∧
      (∀ k < 8, k ≠ f.q → vget [] (t.coreAt w.id).q k = vget [] (s.coreAt w.id).q k) ∧
      (b = 0 → (∀ e ∈ old, e.word = w → e.ready ≠ ready) → ∃ pre post,
        let new : QEnt := ⟨⟨part, f.tag, false⟩, ready, w, 0, []⟩
        old = pre ++ post ∧ vget [] (t.coreAt w.id).q f.q = pre ++ new :: post ∧
          (∀ e ∈ pre, entryBefore new e = false) ∧ ∀ e ∈ post.head?, entryBefore new e = true) ∧
      (0 < b → vget [] (t.coreAt w.id).q f.q = old.map (fun e => if e.word = w ∧ e.ready = ready then
        { e with tile := { e.tile with data :=
          if b = 15 then (f.pitch.map (fun p => columnOrder (widthOf f.tag) p (e.tile.data ||| part))).getD (e.tile.data ||| part)
          else e.tile.data ||| part } } else e)) ∧
      (b = 15 → ∃ e ∈ t.agenda, e.at' = ready ∧ e.act = .queueEntryReady w false f.q ready)

/-- R145, R148, R162, R165, R168, R271, R310: reads of other members. -/
def Obligations.PeerReads : Prop :=
  Sys2Proof.Claims.peerReadsIssue ∧ Sys2Proof.Claims.peerRequestsPerform ∧ Sys2Proof.Claims.peerFeedsArrive

/-! ## Itineraries -/

/-- R60, R61, R65, R112, R154, R205: at first departure every core of the itinerary stands on its registers' reset values with
s1 holding ARG of the record, the context's event queue is empty on every member (that it is emptied there is the model's
reading, log 81), and the first leg is due; a forwarded record reaches its member. Registers without a reset value in the
manual start at zero (log 5). -/
def Sys2Proof.Claims.firstDeparture : Prop :=
  ∀ (r : Nat) (s : State),
    ((s.run r).st ≠ .departing → exec (.departure r) s = .next s) ∧
    ((s.run r).st = .departing → ∃ t, exec (.departure r) s = .next t ∧ (t.run r).st = .running ∧ (t.run r).base = s.now ∧
      (∀ id ∈ coresOf (s.run r), (t.coreAt id).run = some r ∧
        (t.coreAt id).rs 1 = BitVec.ofNat 64 (field (s.run r).record 64 64) ∧
        (∀ k, k ≠ 1 → (t.coreAt id).rs k = 0) ∧ (t.coreAt id).bound = 0 ∧ (t.coreAt id).tvec = 0 ∧
        (t.coreAt id).flagsVx = 0 ∧ (t.coreAt id).leases = [] ∧ (t.coreAt id).arb = 0 ∧ (t.coreAt id).rl.toNat = 10) ∧
      (∀ id, id ∉ coresOf (s.run r) → t.coreAt id = s.coreAt id) ∧
      (∀ m ∈ (s.run r).members, (s.run r).ctx < 16 →
        (t.ctx m.1 (s.run r).ctx).evq = [] ∧ (t.ctx m.1 (s.run r).ctx).evqLost = 0) ∧
      ∃ e ∈ t.agenda, e.act = .legDeparture r 0) ∧
    ∀ (d : Nat) (c : BitVec 4) (rec : BitVec 512) (ms : List (Nat × Nat)),
      ∃ t, exec (.launchForward d c.toNat rec ms) s = .next t ∧ (t.ctx d c.toNat).forwarded = some (rec, ms) ∧
        { t.ctx d c.toNat with forwarded := (s.ctx d c.toNat).forwarded } = s.ctx d c.toNat ∧ s.onlyDev t d

/-- R58, R59, R75, R78, R81: when a leg departs, a core that has reached the end of the leg before it stands at leg tick 0 of
the new leg with SQ at the first word of its record and no other stream forked, whatever another core does; one that has not
raises missed departure, as does one whose waypoint has not ended at the last deadline: it starts nothing of the new leg, and
all its streams stand stopped (the model's reading, log 135); the leg table is read as the count before left it (log 156); a
stream of timed code that still runs at 2^22 raises leg overrun, the first one of its core (log 104). A listed yield tick
tells its cores as it begins that only a yield may issue there, and checks them as it ends: a core that has not yielded, or is
not quiescent, raises the yield fault. -/
def Sys2Proof.Claims.legsDepartAndEnd : Prop :=
  ∀ (r leg : Nat) (s : State),
    ((s.run r).issues s.now = false → exec (.legDeparture r leg) s = .next s ∧ exec (.legOverrun r leg) s = .next s ∧
      exec (.lastLegDeadline r leg) s = .next s) ∧
    ((s.run r).issues s.now = true → (coresOf (s.run r)).Nodup →
      ∃ t, exec (.legDeparture r leg) s = .next t ∧ (t.run r).leg = leg ∧
        ∀ id ∈ coresOf (s.run r), (s.coreAt id).run = some r → (leg = 0 ∨ (s.coreAt id).reached = true) →
          (t.coreAt id).leg = leg ∧ (t.coreAt id).base = s.now ∧ (t.coreAt id).reached = false ∧
          (t.coreAt id).vx = .idle ∧ (t.coreAt id).mx = .idle ∧ (t.coreAt id).ax = .idle ∧
          (t.coreAt id).sq.st = .running ∧ (t.coreAt id).sq.pc = t.legAddr id (legField .sq) ∧ (t.coreAt id).sq.ready = 0 ∧
          (t.coreAt id).waypoint = false ∧ (∀ k, (t.coreAt id).rs k = (s.coreAt id).rs k)) ∧
    ((s.run r).issues s.now = true → (s.run r).live = true → leg ≠ 0 → ∀ id ∈ coresOf (s.run r), (s.coreAt id).run = some r →
      (s.coreAt id).reached = false → ∃ t, exec (.legDeparture r leg) s = .next t ∧
        (t.coreAt id).leg = (s.coreAt id).leg ∧ (t.coreAt id).base = (s.coreAt id).base ∧
        (∀ e ∈ engines, ((t.coreAt id).stream e).st ≠ .running) ∧
        ∃ f ∈ (t.run r).faults, f.cause = 0x0B ∧ f.t = s.now ∧ f.lcore = id.core) ∧
    ((s.run r).issues s.now = true → (s.run r).live = true → ∀ id ∈ s.inLeg r leg,
      ((s.coreAt id).reached = false → ∃ t, exec (.lastLegDeadline r leg) s = .next t ∧
        (∀ e ∈ engines, ((t.coreAt id).stream e).st ≠ .running) ∧
        ∃ f ∈ (t.run r).faults, f.cause = 0x0B ∧ f.t = s.now ∧ f.lcore = id.core) ∧
      ((s.coreAt id).timedEngine ≠ none → ∃ t, exec (.legOverrun r leg) s = .next t ∧
        ∃ f ∈ (t.run r).faults, f.cause = 0x0E ∧ f.t = s.now ∧ f.lcore = id.core)) ∧
    ((s.run r).issues s.now = true →
      ((∀ id ∈ s.inLeg r leg, (s.coreAt id).reached = true) → exec (.lastLegDeadline r leg) s = .next s) ∧
      ((∀ id ∈ s.inLeg r leg, (s.coreAt id).timedEngine = none) → exec (.legOverrun r leg) s = .next s) ∧
      ∀ tick,
        ((∀ id ∈ s.inLeg r leg, (s.coreAt id).yieldDue ≠ some tick) →
          ∃ t, exec (.yieldListTick r leg tick) s = .next t ∧ t.runs = s.runs ∧
            (∀ id ∈ s.inLeg r leg, t.coreAt id = { s.coreAt id with yieldDue := some tick }) ∧
            ∃ e ∈ t.agenda, e.at' = s.now ∧ e.phase = phEnd ∧ e.act = .yieldListTick r leg tick) ∧
        ((∃ id ∈ s.inLeg r leg, (s.coreAt id).yieldDue = some tick) →
          ((∀ id ∈ s.inLeg r leg, (s.coreAt id).yielded = some tick ∧ (s.coreAt id).quiescent s.now = true) →
            ∃ t, exec (.yieldListTick r leg tick) s = .next t ∧ t.runs = s.runs ∧
              ∀ id ∈ s.inLeg r leg, t.coreAt id = { s.coreAt id with yieldDue := none }) ∧
          ((s.run r).live = true → ∀ id ∈ s.inLeg r leg,
            ((s.coreAt id).yielded = some tick ∧ (s.coreAt id).quiescent s.now = false) ∨
              ((s.coreAt id).yielded ≠ some tick ∧ (s.coreAt id).sq.issued ≠ some s.now) →
            ∃ t, exec (.yieldListTick r leg tick) s = .next t ∧
              ∃ f ∈ (t.run r).faults, f.cause = 0x09 ∧ f.t = s.now ∧ f.lcore = id.core)))

/-- R66, R80, R83, R106, R308: the final END of a leg of a core is reached at the end of its count, but where a fault of that
count takes its place. With the last one of the last leg the itinerary retires, but where a halt or an unwind is on its way (the
model's reading, log 77): the handles of its cores are unbound, its partitions are free, every member's queue has a record of
STATUS 0 (R66 says the context's event queue, and that each member's device has one is the model's reading, log 22), and the
drovers are to serve; a pending request is taken there, and holds the context's queue heads, while one whose count has not come
stays (the model's reading, log 79). -/
def Sys2Proof.Claims.itinerariesRetire : Prop :=
  ∀ (w : WordRef) (s : State),
    let x := s.run w.run
    let others := ∀ id ∈ coresOf x, id ≠ w.id → (s.coreAt id).reached = true ∧ (s.coreAt id).leg = w.leg
    (s.mine w = false ∨ x.st ≠ .running ∨ s.faultedNow w.run w.id = true → exec (.leasedResult w .ended) s = .next s) ∧
    (s.mine w = true → x.st = .running → s.faultedNow w.run w.id = false →
      (w.leg + 1 ≠ x.legs ∨ x.unhalted s.now = false ∨ ¬ others →
        ∃ t, exec (.leasedResult w .ended) s = .next t ∧ (t.coreAt w.id).reached = true ∧
          { t.coreAt w.id with reached := (s.coreAt w.id).reached } = s.coreAt w.id ∧
          (∀ k, k ≠ w.id → t.coreAt k = s.coreAt k) ∧ { t with cores := s.cores } = s) ∧
      (w.leg + 1 = x.legs → x.unhalted s.now = true → others → (s.coreAt w.id).leg = w.leg →
        ∃ t, exec (.leasedResult w .ended) s = .next t ∧ (t.run w.run).st = .retired ∧ s.sameBytes t ∧
          (∀ id ∈ coresOf x, (t.coreAt id).bound = 0 ∧ (t.coreAt id).h = (s.coreAt id).h ∧ (t.coreAt id).s = (s.coreAt id).s ∧
            (t.coreAt id).t = (s.coreAt id).t ∧ (t.coreAt id).acc = (s.coreAt id).acc) ∧
          (∀ m ∈ x.members, t.partOf m.1 m.2 = ⟨none, false⟩ ∧ ∃ e ∈ t.agenda, e.at' = s.now ∧ e.who.dev = m.1 ∧ e.act = .droverServe) ∧
          (x.ctx < 16 → (x.members.map (·.1)).Nodup → ∀ m ∈ x.members, (s.ctx m.1 x.ctx).evq.length < 256 →
            (t.ctx m.1 x.ctx).evq = insertRecord (eventRecord (BitVec.ofNat 128 (field x.record 264 24)) s.now
              (s.ctx m.1 x.ctx).lossPending 0 0 (s.ctx m.1 x.ctx).seq0) (s.ctx m.1 x.ctx).evq) ∧
          (x.ctx < 16 →
            (∀ c, (s.ctx x.home x.ctx).pending = some c → c ≤ s.now →
              (t.ctx x.home x.ctx).pending = none ∧ (t.ctx x.home x.ctx).suspHeld = true) ∧
            ((∀ c, (s.ctx x.home x.ctx).pending = some c → s.now < c) →
              (t.ctx x.home x.ctx).pending = (s.ctx x.home x.ctx).pending ∧
              (t.ctx x.home x.ctx).suspHeld = (s.ctx x.home x.ctx).suspHeld))))

/-- R58–R61, R65, R66, R75, R78, R80, R81, R83, R112, R154, R205: departures, legs and their deadlines, retirement (logs 5,
22, 77, 79, 81, 104, 135, 156). -/
def Obligations.DeparturesAndLegs : Prop :=
  Sys2Proof.Claims.firstDeparture ∧ Sys2Proof.Claims.legsDepartAndEnd ∧ Sys2Proof.Claims.itinerariesRetire

/-- R75, R80, R82, R83, R165, R179: a yield point empties the core's latches and drops the entries that have landed in its
queues. A request whose count has come is taken there, unless the core has faulted at that count or a halt or an unwind has
begun (the model's reading, log 77): every core of the itinerary stands as it pauses, what is in flight is kept with it, and
its save is to end at a later count. That all cores pause at this one count, and that what is in flight stays with the
itinerary, is the model's reading (log 78). -/
def Sys2Proof.Claims.yieldsAreTaken : Prop :=
  (∀ (w : WordRef) (s : State),
    let x := s.run w.run
    (s.mine w = false ∨ x.st ≠ .running → exec (.leasedResult w .yieldPoint) s = .next s) ∧
    (s.mine w = true → x.st = .running →
      ((∀ c, (s.ctx x.home x.ctx).pending = some c → s.now < c) ∨ s.faultedNow w.run w.id = true ∨ x.unhalted s.now = false →
        ∃ t, exec (.leasedResult w .yieldPoint) s = .next t ∧ t.coreAt w.id = (s.coreAt w.id).emptied s.now ∧
          (∀ k, k ≠ w.id → t.coreAt k = s.coreAt k) ∧ { t with cores := s.cores } = s) ∧
      (∀ c, (s.ctx x.home x.ctx).pending = some c → c ≤ s.now → s.faultedNow w.run w.id = false → x.unhalted s.now = true →
        x.ctx < 16 → (coresOf x).Nodup →
        ∃ t, exec (.leasedResult w .yieldPoint) s = .next t ∧ (t.run w.run).st = .saving ∧ (t.run w.run).savedAt = s.now ∧
          (t.ctx x.home x.ctx).pending = none ∧ s.sameBytes t ∧
          (∀ id ∈ coresOf x, t.coreAt id = (s.coreAt id).paused s.now) ∧
          (∀ p ∈ s.agenda, Instr.keepsTick p.act w.run = true → isYieldPoint p.act = false → ⟨w.run, p⟩ ∈ t.kept) ∧
          (∀ p ∈ s.agenda, Instr.keepsTick p.act w.run = false → p ∈ t.agenda) ∧
          (∀ p ∈ t.agenda, Instr.keepsTick p.act w.run = true → p.act = .contextSaveDone w.run) ∧
          ∃ p ∈ t.agenda, s.now < p.at' ∧ p.act = .contextSaveDone w.run))) ∧
  ∀ (c : Core) (now : Nat),
    (∀ i, vget tileZero (c.emptied now).latches i = tileZero) ∧
    (∀ k < 8, ∀ e, e ∈ vget [] (c.emptied now).q k ↔ e ∈ vget [] c.q k ∧ now < e.ready) ∧
    (∀ k < 4, ∀ e, e ∈ vget [] (c.emptied now).o k ↔ e ∈ vget [] c.o k ∧ now < e.ready) ∧
    { c.emptied now with latches := c.latches, q := c.q, o := c.o } = c ∧
    { c.paused now with wait := c.wait, sq := c.sq } = c.emptied now ∧ (c.wait ≠ .event → c.paused now = c.emptied now)

/-- R80, R82, R277, R278: a pre-emption request of a context is pending from count C = arrival + 4,096 and a second one has
outcome 3, and at C a core of the context that waits for an event stands at a yield point; what was written besides 1 or 2
asks for nothing, nor does a request to a device that is a member and not the leader; one to readmit a suspended itinerary, or
queue heads that are held, is accepted, the waits of the context's entries go on, and the drover is to serve; a request
through a function that the context is not bound to is an Unsupported Request (log 23); when the save ends the cores are kept,
in the itinerary's own state (log 105), and when the itinerary resumes they stand as they were kept, with leg tick 0 moved by
the counts the itinerary was away: R80 says so of a timed yield, and that every core's moves, waypoint cores among them, is
the model's reading (log 106). -/
def Sys2Proof.Claims.requestsAndResumes : Prop :=
  ∀ (d f : Nat) (c : BitVec 4) (v : Reg) (r : Nat) (s : State),
    let goesOn (t : State) : Prop := (t.ctx d c.toNat).suspLast = 1 ∧ t.cores = s.cores ∧
      (∀ k < 4, vget [] (t.ctx d c.toNat).queues k = (vget [] (s.ctx d c.toNat).queues k).map
        (fun e => { e with since := e.since + (s.now - max (s.ctx d c.toNat).heldAt e.since) })) ∧
      ∃ e ∈ t.agenda, e.at' = s.now ∧ e.who.dev = d ∧ e.act = .droverServe
    (f ≠ Config.functionOf d c.toNat → ∀ i ∈ [Instr.suspPreempt ⟨d, c.toNat⟩ f v, .suspReadmit ⟨d, c.toNat⟩ f v],
      exec i s = .next (s.modDev d fun x => { x with unsupported := x.unsupported + 1 })) ∧
    (f = Config.functionOf d c.toNat →
      (v ≠ 1 → exec (.suspPreempt ⟨d, c.toNat⟩ f v) s = .next s) ∧ (v ≠ 2 → exec (.suspReadmit ⟨d, c.toNat⟩ f v) s = .next s) ∧
      (s.memberOnly d c.toNat = true →
        exec (.suspPreempt ⟨d, c.toNat⟩ f v) s = .next s ∧ exec (.suspReadmit ⟨d, c.toNat⟩ f v) s = .next s) ∧
      (∀ x, s.activeRun d c.toNat = some (r, x) → x.home = d → x.st = .running →
        ((s.ctx d c.toNat).pending = none → (s.ctx d c.toNat).suspHeld = false →
          ∃ t, exec (.suspPreempt ⟨d, c.toNat⟩ f 1) s = .next t ∧ (t.ctx d c.toNat).pending = some (s.now + 4096) ∧
            (t.ctx d c.toNat).suspLast = 1 ∧ t.cores = s.cores ∧ t.runs = s.runs ∧
            ∃ e ∈ t.agenda, e.at' = s.now + 4096 ∧ e.act = .preemptPending ⟨d, c.toNat⟩) ∧
        ((s.ctx d c.toNat).pending ≠ none → ∃ t, exec (.suspPreempt ⟨d, c.toNat⟩ f 1) s = .next t ∧
          (t.ctx d c.toNat).suspLast = 3 ∧ t.runs = s.runs ∧ t.cores = s.cores)) ∧
      (∀ x, s.activeRun d c.toNat = some (r, x) → x.home = d → x.st = .suspended →
        ∃ t, exec (.suspReadmit ⟨d, c.toNat⟩ f 2) s = .next t ∧ goesOn t ∧ (t.run r).st = .readmitted ∧
          { t.run r with st := (s.run r).st } = s.run r ∧ (t.ctx d c.toNat).suspHeld = (s.ctx d c.toNat).suspHeld) ∧
      (s.activeRun d c.toNat = none → s.memberOnly d c.toNat = false → (s.ctx d c.toNat).suspHeld = true →
        ∃ t, exec (.suspReadmit ⟨d, c.toNat⟩ f 2) s = .next t ∧ goesOn t ∧ t.runs = s.runs ∧
          (t.ctx d c.toNat).suspHeld = false) ∧
      (s.activeRun d c.toNat = none → s.memberOnly d c.toNat = false → (s.ctx d c.toNat).suspHeld = false →
        (∃ t, exec (.suspReadmit ⟨d, c.toNat⟩ f 2) s = .next t ∧ (t.ctx d c.toNat).suspLast = 3 ∧ t.cores = s.cores) ∧
        ((s.ctx d c.toNat).queues.toList.all List.isEmpty = true → (s.ctx d c.toNat).pending = none →
          ∃ t, exec (.suspPreempt ⟨d, c.toNat⟩ f 1) s = .next t ∧ (t.ctx d c.toNat).suspLast = 2 ∧ t.cores = s.cores))) ∧
    ((∀ x ∈ s.runs, x.2.st ≠ .running) → exec (.preemptPending ⟨d, c.toNat⟩) s = .next s) ∧
    (∃ t, exec (.preemptPending ⟨d, c.toNat⟩) s = .next t ∧ t.cores = s.cores ∧ t.runs = s.runs ∧ t.devs = s.devs ∧
      ∀ x ∈ s.runs, x.2.st = .running → x.2.ctx = c.toNat → x.2.home = d → ∀ id ∈ coresOf x.2, (s.coreAt id).wait = .event →
        ∃ p ∈ t.agenda, p.at' = s.now ∧ ∃ w, w.id = id ∧ p.act = .leasedResult w .yieldPoint) ∧
    ((s.run r).st = .saving → ∃ t, exec (.contextSaveDone r) s = .next t ∧ (t.run r).st = .suspended ∧
      (∀ y ∈ (t.run r).savedCores, y.2 = s.coreAt y.1) ∧ (t.run r).savedCores.map (·.1) = coresOf (s.run r) ∧
      ∀ id ∈ coresOf (s.run r), (t.coreAt id).run = none) ∧
    ((s.run r).st = .resuming → (s.run r).savedCores.map (·.1) = coresOf (s.run r) → (coresOf (s.run r)).Nodup →
      ∃ t, exec (.resume r) s = .next t ∧ (t.run r).st = .running ∧
        ∀ y ∈ (s.run r).savedCores, (t.coreAt y.1).base = y.2.base + (s.now - ((s.run r).savedAt + 1)) ∧
          (t.coreAt y.1).s = y.2.s ∧ (t.coreAt y.1).p = y.2.p ∧ (t.coreAt y.1).a = y.2.a ∧ (t.coreAt y.1).h = y.2.h ∧
          (t.coreAt y.1).t = y.2.t ∧ (t.coreAt y.1).acc = y.2.acc ∧ (t.coreAt y.1).sp = y.2.sp ∧
          (t.coreAt y.1).loft = y.2.loft)

/-- R75, R80, R82, R83, R165, R179, R277, R278: requests for pre-emption, the yield point that takes one, the save and the
resume (logs 23, 77, 78, 105, 106). -/
def Obligations.PreemptionKeepsCores : Prop := Sys2Proof.Claims.requestsAndResumes ∧ Sys2Proof.Claims.yieldsAreTaken

/-! ## Halts, unwinds, holds -/

/-- R85, R306–R308, R313, R321, R322, R84: a halt flit brings the stop of its device at T + 8,192; the stop that STOPC asked
for arises with its first one, at T, as a fault of cause 0x5E (log 108); at the stop the itinerary is halted, the partition
stands halted and every running stream of its cores stopped, with every register and byte as it was, while untimed accesses
that no fence holds stay on their way to their completers (log 130); the kept record is written once a fault stands, and of
the unwinds of a count the one of the lowest member and core alone (R204); that a halt keeps none of the faults that unwind is
the model's choice where they are of its count (log 150); an unwind tick does nothing to an itinerary that no
longer runs; the trigger latches every counter into its shadow at its count; a group hold begins with its duration and pulses.
-/
def Sys2Proof.Claims.haltsAndHolds : Prop :=
  ∀ (d r t0 origin cause n e : Nat) (sc : HaltScope) (hc : HoldCause) (u : Unwind) (o : Option WordRef) (x : Nat) (s : State),
    ((s.run r).live = true → (s.run r).stopDue d t0 origin cause = false →
      ∃ t, exec (.haltFlit d r t0 sc origin cause) s = .next t ∧ t.cores = s.cores ∧ t.runs = s.runs ∧
        ∃ p ∈ t.agenda, p.at' = t0 + 8192 ∧ p.act = .haltStop d r t0) ∧
    ((s.run r).live = true → (∀ f ∈ (s.run r).faults, f.cause ≠ 0x5E) →
      ∃ t, exec (.haltFlit d r t0 sc d 0x5E) s = .next t ∧ t.cores = s.cores ∧
        (∃ f, (t.run r).faults = (s.run r).faults ++ [f] ∧ f.cause = 0x5E ∧ f.t = t0 ∧ f.dev = d ∧ f.lcore = 0xFF) ∧
        ((s.run r).halt = none → (t.run r).halt = some (t0, .itinerary, d)) ∧
        ∀ m ∈ (s.run r).members, ∃ p ∈ t.agenda, p.at' = s.now + s.controlLatency d m.1 ∧
          p.act = .haltFlit m.1 r t0 .itinerary d 0x5E) ∧
    ((s.run r).live = false → exec (.haltFlit d r t0 sc origin cause) s = .next s ∧ exec (.unwindFlit d r u o) s = .next s) ∧
    ((s.run r).live = true → ∃ t, exec (.unwindFlit d r u none) s = .next t ∧ t.cores = s.cores ∧ t.runs = s.runs ∧
      ∃ p ∈ t.agenda, p.at' = u.t + 8192 ∧ p.act = .kraalUnwind d r u) ∧
    ((s.run r).halt = none → exec (.haltStop d r t0) s = .next s) ∧
    ((s.run r).halt = some (t0, sc, origin) → (s.run r).st = .running →
      (∃ m ∈ (s.run r).members, m.1 = d ∧ (s.partOf d m.2).run = some r ∧ (s.partOf d m.2).halted = false) →
      ∃ t, exec (.haltStop d r t0) s = .next t ∧ (t.run r).st = .halted ∧ s.sameBytes t ∧
        ∀ m ∈ (s.run r).members, m.1 = d → (s.partOf d m.2).run = some r → (s.partOf d m.2).halted = false →
          (t.partOf d m.2).halted = true ∧ (t.partOf d m.2).run = some r ∧
          ∀ id ∈ coresOn (s.run r) m, (∀ e ∈ engines, ((t.coreAt id).stream e).st ≠ .running) ∧
            (t.coreAt id).s = (s.coreAt id).s ∧ (t.coreAt id).a = (s.coreAt id).a ∧ (t.coreAt id).t = (s.coreAt id).t ∧
            (t.coreAt id).acc = (s.coreAt id).acc ∧ (t.coreAt id).fences = [] ∧ (t.coreAt id).wait = .none ∧
            (∀ y ∈ (s.coreAt id).dispatches, y.done = false → (s.coreAt id).holds false y.pool y.issued = false →
              { y with ended := true } ∈ (t.coreAt id).dispatches) ∧
            ∀ w a k dst v i, (s.coreAt id).wait = .host w a k dst v i → (s.coreAt id).holds true false i = false →
              ⟨i, a, k, dst.isSome, v⟩ ∈ (t.coreAt id).strays) ∧
    ((s.run r).keptFault = none → exec (.faultRecordWrite r none) s = .next s) ∧
    (∀ f, (s.run r).keptFault = some f → ∃ t, exec (.faultRecordWrite r none) s = .next t ∧
      (t.run r).kept = some ((s.run r).faultRecord f) ∧ t.cores = s.cores) ∧
    (∀ f, (s.run r).keptUnwind u = some f → (s.run r).halt = none → (s.run r).kept = none → (s.run r).takesPlace u = true →
      ((s.run r).keptUnwinds u.t = some f → exec (.faultRecordWrite r (some u)) s = .next (s.writeRecord r ((s.run r).faultRecord f))) ∧
      ((s.run r).keptUnwinds u.t ≠ some f → exec (.faultRecordWrite r (some u)) s = .next s)) ∧
    ((s.run r).st ≠ .running → exec (.kraalUnwind d r u) s = .next s) ∧
    (s.trigger = some x → ∃ t, exec (.triggerLatch x) s = .next t ∧ t.trigger = none ∧
      (∀ id, (t.coreAt id).counters = (s.coreAt id).counters) ∧
      ∀ y ∈ s.cores, (y.1, { y.2 with shadows := y.2.counters }) ∈ t.cores) ∧
    (s.trigger ≠ some x → exec (.triggerLatch x) s = .next s) ∧
    ∃ t, exec (.groupHold x n e hc) s = .next t ∧ t.cores = s.cores ∧
      t.holds = s.holds ++ [⟨x, min (max n 1) 65536, min (max e 1) 15, hc⟩]

/-- A core has entered the handler of its kraal (R313): its streams have ended and are joined, its leases are gone, its queues
and latches empty, no fence is pending, TCAUSE names 0x44 and the cause of the fault that is kept, the kraal is closed, and its
registers and bytes stand. -/
def Sys2Proof.Claims.Unwound (s t : State) (r : Nat) (u : Unwind) (id : CoreId) (k : Kraal) : Prop :=
  let x := s.coreAt id
  let y := t.coreAt id
  y.kraal = none ∧ y.waypoint = true ∧ y.leases = [] ∧ y.tepc = 0 ∧ y.q = Vector.replicate 8 [] ∧ y.o = Vector.replicate 4 [] ∧
    y.latches = Vector.replicate 3 tileZero ∧ y.fences = [] ∧
    (∀ g, (s.run r).keptUnwind u = some g → y.tcause = 0x44#8 ++ BitVec.ofNat 8 g.cause) ∧
    y.tstate = false ∧ y.sq.pc = k.handler ∧ y.sq.st = .running ∧
    (∀ e ∈ [Engine.ax, .vx, .mx], (y.stream e).st = .unforked ∨ ((y.stream e).st = .ended ∧ (y.stream e).joined = true)) ∧
    (∀ i, y.rs i = x.rs i) ∧ (∀ i, y.ra i = x.ra i) ∧ y.t = x.t ∧ y.acc = x.acc ∧ y.sp = x.sp ∧ y.loft = x.loft

/-- R311: at the end of its count a fault of a kraal code sends an unwind flit to every member where the kraal is still open,
the fault is marked as one of that unwind, and the leader is to write its record; a second fault of the same count, region and
herd sends none. Where a kclose has closed the kraal, the itinerary halts. -/
def Sys2Proof.Claims.unwindBegins : Prop :=
  ∀ (d r : Nat) (u : Unwind) (w : WordRef) (s : State), (s.run r).live = true →
    let covered := ∃ k, (s.coreAt w.id).kraal = some k ∧ k.region = u.region ∧ k.herd = u.herd
    let known := ∃ v ∈ (s.run r).unwinds, v.t = u.t ∧ v.region = u.region ∧ v.herd = u.herd
    let marked (t : State) : Prop := (t.run r).faults = (s.run r).faults.map (fun f =>
      if f.word = w ∧ f.t = u.t then { f with scope := 3, kraal := some (u.region, u.herd) } else f)
    (s.mine w = true → covered → ¬ known →
      ∃ t, exec (.unwindFlit d r u (some w)) s = .next t ∧ t.cores = s.cores ∧ (t.run r).unwinds = (s.run r).unwinds ++ [u] ∧
        marked t ∧ (t.run r).halt = (s.run r).halt ∧
        (∀ m ∈ (s.run r).members, ∃ p ∈ t.agenda, p.at' = s.now + s.controlLatency d m.1 ∧ p.act = .unwindFlit m.1 r u none) ∧
        ∃ p ∈ t.agenda, u.t + 8192 ≤ p.at' ∧ p.at' ≤ u.t + 24576 ∧ p.act = .faultRecordWrite r (some u)) ∧
    (s.mine w = true → covered → known →
      ∃ t, exec (.unwindFlit d r u (some w)) s = .next t ∧ t.cores = s.cores ∧ (t.run r).unwinds = (s.run r).unwinds ∧
        marked t ∧ t.agenda = s.agenda) ∧
    (¬ (s.mine w = true ∧ covered) → (s.run r).halt = none → (s.run r).st = .running →
      ∃ t, exec (.unwindFlit d r u (some w)) s = .next t ∧ t.cores = s.cores ∧ (t.run r).unwinds = (s.run r).unwinds ∧
        (t.run r).halt = some (u.t, .itinerary, d) ∧
        ∀ m ∈ (s.run r).members, ∃ p ∈ t.agenda, p.at' = s.now + s.controlLatency d m.1 ∧
          p.act = .haltFlit m.1 r u.t .itinerary d u.cause)

/-- R311, R312, R313: at an unwind tick every core of the herd on the device that follows this unwind and whose kraal of the
region is open enters its handler; one that has another kraal open, or none, raises the kraal fault; a core that is no such
follower keeps its kraal, registers and bytes. -/
def Sys2Proof.Claims.unwindEntersHandler : Prop :=
  ∀ (d r : Nat) (u : Unwind) (s : State),
    let herd := ((s.run r).herds[u.herd]?).getD []
    let follows (id : CoreId) : Prop := id ∈ herd ∧ id.dev = d ∧ (s.coreAt id).run = some r ∧
      (s.run r).unwindsAt id s.now = some u
    let stands (t : State) (id : CoreId) : Prop :=
      (t.coreAt id).kraal = (s.coreAt id).kraal ∧ (t.coreAt id).s = (s.coreAt id).s ∧ (t.coreAt id).a = (s.coreAt id).a ∧
        (t.coreAt id).t = (s.coreAt id).t ∧ (t.coreAt id).acc = (s.coreAt id).acc ∧ (t.coreAt id).sp = (s.coreAt id).sp ∧
        (t.coreAt id).loft = (s.coreAt id).loft
    (s.run r).st = .running → herd.Nodup →
    ∃ t, exec (.kraalUnwind d r u) s = .next t ∧
      (∀ id k, follows id → (s.coreAt id).kraal = some k → k.region = u.region → Sys2Proof.Claims.Unwound s t r u id k) ∧
      (∀ id, follows id → (∀ k, (s.coreAt id).kraal = some k → k.region ≠ u.region) →
        stands t id ∧ ∃ f ∈ (t.run r).faults, f.cause = 0x59 ∧ f.t = s.now ∧ f.dev = d ∧ f.lcore = id.core ∧ f.eng = .sq) ∧
      ∀ id, id ∉ herd ∨ id.dev ≠ d ∨ (s.coreAt id).run ≠ some r → stands t id

/-- R84, R85, R204, R306, R308, R311–R313, R321: halts, unwinds, the trigger and holds. -/
def Obligations.HaltsAndUnwinds : Prop :=
  Sys2Proof.Claims.haltsAndHolds ∧ Sys2Proof.Claims.unwindBegins ∧ Sys2Proof.Claims.unwindEntersHandler

/-! ## Host, firmware and device -/

/-- R62, R108, R277–R280, R308, R318, R322, R327: what a host write does. A write of a window through a function that the
context is not bound to is an Unsupported Request (log 23), as is one of a register of BAR0 through another function than the
physical one (the model's reading, log 85); another record is kept with its status, 0 queues it and another status does not,
and one written in pieces arrives, as its bytes stand then, with the write that covers its last byte; a doorbell is posted with
its value where an itinerary of the context has departed, and else discarded and counted in EVQ_LOST; a release of
1 frees the partitions of the context's halted itinerary on the device and unbinds their cores' handles, one of another
value and a partition set while the device is busy (log 102) change nothing; a stop at too early a count stops
nothing, one at a later count S arises at S − 8,192 (as a halt of that count: the model's choice, log 108). A partition that
stands halted stays so when the set is written (log 131), and cores keep their state (log 144). -/
def Sys2Proof.Claims.hostWrites : Prop :=
  ∀ (d f : Nat) (c : BitVec 4) (rec : BitVec 512) (v : Reg) (e : BitVec 8) (n : Nat) (s : State),
    let there := s.ctx d c.toNat
    let refused := s.modDev d fun x => { x with unsupported := x.unsupported + 1 }
    (f ≠ Config.functionOf d c.toNat → ∀ i ∈ [Instr.launchRecord d c.toNat f rec, .dbell d c.toNat f v,
        .registerWrite d (.record f c.toNat n) v, .registerWrite d (.member f c.toNat n) v, .registerWrite d (.other f c.toNat n) v],
      exec i s = .next refused) ∧
    (f ≠ 0 → exec (.registerWrite d (.bar0 f n) v) s = .next refused) ∧
    (f = Config.functionOf d c.toNat →
      (∃ t, exec (.launchRecord d c.toNat f rec) s = .next t ∧ (t.ctx d c.toNat).record = rec ∧
        (t.ctx d c.toNat).status = BitVec.ofNat 64 (s.launchStatus d c.toNat rec) ∧ t.cores = s.cores ∧ t.runs = s.runs ∧
        (s.launchStatus d c.toNat rec ≠ 0 → (t.ctx d c.toNat).queues = there.queues) ∧
        (s.launchStatus d c.toNat rec = 0 → ∃ q, vget [] (t.ctx d c.toNat).queues (field rec 58 2) =
            vget [] there.queues (field rec 58 2) ++ [q] ∧ q.record = rec ∧ q.members = recordMembers d there rec ∧
          q.arrived = s.now ∧ q.since = s.now ∧ q.control = (f == 0) ∧
          ∀ k < 4, k ≠ field rec 58 2 → vget [] (t.ctx d c.toNat).queues k = vget [] there.queues k)) ∧
      (s.departedHere d c.toNat = false → ∃ t, exec (.dbell d c.toNat f v) s = .next t ∧ s.onlyDev t d ∧
        (t.ctx d c.toNat).evqLost.toNat = min (2 ^ 32 - 1) (there.evqLost.toNat + 1) ∧
        { t.ctx d c.toNat with evqLost := there.evqLost } = there) ∧
      (s.departedHere d c.toNat = true → there.evq.length < 256 → ∃ t, exec (.dbell d c.toNat f v) s = .next t ∧
        (t.ctx d c.toNat).evq =
          insertRecord (eventRecord (v.setWidth 128) s.now there.lossPending 4 f there.dbellNo) there.evq ∧
        (t.ctx d c.toNat).dbellNo = there.dbellNo + 1) ∧
      (∃ t, exec (.registerWrite d (.member f c.toNat e.toNat) v) s = .next t ∧
        look 0 e.toNat (t.ctx d c.toNat).members = v.setWidth 16 ∧ s.onlyDev t d) ∧
      (n ≤ 63 → 63 < n + 8 → ∃ t, exec (.registerWrite d (.record f c.toNat n) v) s = .next t ∧ t.cores = s.cores ∧ t.runs = s.runs ∧
        let rec' := (t.ctx d c.toNat).record
        (∀ i < 512, rec'.getLsbD i = if 8 * n ≤ i then v.getLsbD (i - 8 * n) else there.record.getLsbD i) ∧
        (t.ctx d c.toNat).status = BitVec.ofNat 64 (s.launchStatus d c.toNat rec') ∧
        (s.launchStatus d c.toNat rec' ≠ 0 → (t.ctx d c.toNat).queues = there.queues) ∧
        (s.launchStatus d c.toNat rec' = 0 → ∃ q, vget [] (t.ctx d c.toNat).queues (field rec' 58 2) =
            vget [] there.queues (field rec' 58 2) ++ [q] ∧ q.record = rec' ∧ q.arrived = s.now)) ∧
      (n + 8 ≤ 63 → ∃ t, exec (.registerWrite d (.record f c.toNat n) v) s = .next t ∧ s.onlyDev t d ∧
        field (t.ctx d c.toNat).record (8 * n) 64 = v.toNat ∧ (t.ctx d c.toNat).status = there.status) ∧
      exec (.registerWrite d (.other f c.toNat n) v) s = .next s) ∧
    (v ≠ 1 → exec (.release d c.toNat v) s = .next s) ∧
    (∀ r, s.haltedRun d c.toNat = some r → ∃ t, exec (.release d c.toNat 1) s = .next t ∧ s.sameBytes t ∧
      (∀ m ∈ (s.run r).members, m.1 = d → t.partOf d m.2 = ⟨none, false⟩ ∧
        ∀ id ∈ coresOn (s.run r) m, (t.coreAt id).bound = 0 ∧ (t.coreAt id).s = (s.coreAt id).s) ∧
      ((∀ m ∈ (s.run r).members, m.1 = d) → (t.run r).st = .retired)) ∧
    (∀ r, s.now + 8192 ≤ v.toNat → s.stoppable c.toNat d = some r →
      ∃ t, exec (.stopc d c.toNat v) s = .next t ∧ t.cores = s.cores ∧ t.runs = s.runs ∧ (t.dev d).stopc = v ∧
        ∃ p ∈ t.agenda, p.at' = v.toNat - 8192 ∧ p.act = .haltFlit d r (v.toNat - 8192) .itinerary d 0x5E) ∧
    (v.toNat < s.now + 8192 → exec (.stopc d c.toNat v) s = .next (s.modDev d fun x => { x with stopc := v })) ∧
    (s.busyDev d = true → exec (.partset d v) s = .next s) ∧
    (s.busyDev d = false → 128 ≤ (s.dev d).working → v.toNat ≤ 3 → ∃ t, exec (.partset d v) s = .next t ∧
      (t.dev d).partset.toNat = v.toNat ∧ { t.dev d with partset := (s.dev d).partset } = s.dev d ∧ s.onlyDev t d)

/-- R2, R56, R151: a host write to a frame that is executable, being scanned or of a tensor page, or beyond the bytes of HBM
(log 111), is an Unsupported Request, and another writes its bytes and no other. -/
def Sys2Proof.Claims.hostMemoryWrites : Prop :=
  ∀ (d a : Nat) (bs : List Byte) (s : State),
    (s.frameLocked d a bs.length = true ∨ s.frameTensor d a bs.length = true ∨ hbmBytes < a + bs.length →
      exec (.hostMemoryWrite d a bs) s = .next (s.modDev d fun x => { x with unsupported := x.unsupported + 1 })) ∧
    (s.frameLocked d a bs.length = false → s.frameTensor d a bs.length = false → a + bs.length ≤ hbmBytes → s.memWf →
      ∃ t, exec (.hostMemoryWrite d a bs) s = .next t ∧ s.onlyDev t d ∧
        (∀ (i : Nat) (h : i < bs.length), readByte (t.dev d).hbm (a + i) = bs[i]) ∧
        ∀ x, x < a ∨ a + bs.length ≤ x → readByte (t.dev d).hbm x = readByte (s.dev d).hbm x)

/-- R52, R53, R56, R61, R150, R151: requests of firmware wait in order of arrival, and by context within a count, and change
no page as they arrive. One for an executable page, and one that moves a page, waits until the commands before it that name an
object in the frame to be scanned have performed. The scanner serves the first: a page with a pin is not unmapped but answered
pinned, and another goes; a page mapped plain, or zeroed, holds zeros where the context has not held its bytes (log 6); a page
requested executable is scanned if no conflict stands as it is served (the model's choice, log 120; an executable frame that R61
would zero is one: log 112), with zeros where the context has not held its bytes, and is mapped from the
count after its scan where it passes and has no pin (a failure comes first: log 149). -/
def Sys2Proof.Claims.mappings : Prop :=
  ∀ (d : Nat) (c : BitVec 4) (va : Nat) (fr : Option Nat) (r : MapReq) (s : State),
    let queued (i : Instr) (ctx : Nat) (a : Ask) : Prop := ∃ t q, exec i s = .next t ∧ t.cores = s.cores ∧
      (∀ k n, (t.ctx k n).pages = (s.ctx k n).pages) ∧ (t.dev d).requests = insertRequest q (s.dev d).requests ∧
      q.at' = s.now ∧ q.ctx = ctx ∧ q.ask = a ∧ ∃ e ∈ t.agenda, e.at' = s.now ∧ e.act = .scan
    queued (.unmapRequest d c.toNat va fr) c.toNat (.unmap va fr) ∧
    (pageFits r = true → queued (.mapRequest d r) r.ctx (.map r) ∧ (r.exec = none → queued (.frameMap d r) r.ctx (.frame r))) ∧
    (∀ i ask, (i = .mapRequest d r ∧ ask = .map r ∧ pageFits r = true ∧ r.exec ≠ none) ∨
        (i = .unmapRequest d c.toNat va fr ∧ ask = .unmap va fr ∧ fr ≠ none) →
      ∃ t q, exec i s = .next t ∧ q ∈ (t.dev d).requests ∧ q.ask = ask ∧
        ∀ p ∈ s.agenda ++ s.kept.map (·.pend), ∀ x, p.command? = some x → x.1.word.id.dev = d → x.1.word ∈ q.before) ∧
    (∀ (q : Request) (frame size : Nat), (q.ask = .map r ∧ r.exec ≠ none ∧ frame = r.frame ∧ size = r.size) ∨
        (∃ p, q.ask = .unmap va (some frame) ∧ s.pageOf? d q.ctx va = some p ∧ p.exec ≠ none ∧ size = p.size) →
      ∀ u, u ∈ s.holdsBack d q ↔ u ∈ q.before ∧ ∃ p ∈ s.agenda ++ s.kept.map (·.pend), ∃ x, p.command? = some x ∧
        x.1.word = u ∧ u.id.dev = d ∧ ∃ h ∈ [x.1.ha, x.1.hb], ∃ y ∈ handleRanges h,
          ∃ g ∈ (s.pagesOf d (s.ctxW x.1.word) y.1 y.2.1).getD [], framesMeet frame size g.frame g.size = true) ∧
    (pageFits r = false → exec (.mapRequest d r) s = .next s ∧ exec (.frameMap d r) s = .next s) ∧
    (s.id.dev = d → (s.dev d).scan = none → s.memWf →
      (∀ q rest, (s.dev d).requests = q :: rest →
        (∀ pi, s.lastPi (s.holdsBack d q) = some pi → exec .scan s = .next (s.schedDev pi phEnd d .scan)) ∧
        (s.lastPi (s.holdsBack d q) = none → s.suspendedAmong (s.holdsBack d q) = true → exec .scan s = .next s)) ∧
      (∀ q rest, (s.dev d).requests = q :: rest → s.lastPi (s.holdsBack d q) = none →
        s.suspendedAmong (s.holdsBack d q) = false →
        (∀ p, q.ask = .unmap va none → q.ctx < 16 → s.pageOf? d q.ctx va = some p →
          ∃ t, exec .scan s = .next t ∧ (t.dev d).requests = rest ∧
            (0 < p.pins s.now → (t.dev d).pinned = (s.dev d).pinned + 1 ∧ (t.ctx d q.ctx).pages = (s.ctx d q.ctx).pages) ∧
            (p.pins s.now = 0 → (t.ctx d q.ctx).pages = (s.ctx d q.ctx).pages.filter (fun q => q.va != va))) ∧
        (pageFits r = true → q.ctx = r.ctx →
          (∀ zeroes, q.ask = (if zeroes then .frame r else .map r) → r.exec = none → s.frameLocked d r.frame r.size = false →
            s.pinnedAt d r.ctx r.va r.size = false →
            ∃ t, exec .scan s = .next t ∧ (t.dev d).requests = rest ∧
              (∀ x, r.frame ≤ x → x < r.frame + r.size →
                readByte (t.dev d).hbm x = if zeroes = false ∧ (s.dev d).holds r.ctx x = true then readByte (s.dev d).hbm x else 0) ∧
              (∀ x, x < r.frame ∨ r.frame + r.size ≤ x → readByte (t.dev d).hbm x = readByte (s.dev d).hbm x) ∧
              ∃ p ∈ (t.ctx d r.ctx).pages, p.va = r.va ∧ p.frame = r.frame ∧ p.size = r.size ∧ p.exec = none ∧ p.tensor = false) ∧
          (q.ask = .map r → r.exec ≠ none → ∃ t, exec .scan s = .next t ∧ (t.dev d).requests = rest ∧
            (t.ctx d r.ctx).pages = (s.ctx d r.ctx).pages ∧
            (s.conflicts d r = true → (t.dev d).scan = none ∧ ∃ y, (t.dev d).failures = (s.dev d).failures ++ [y]) ∧
            (s.conflicts d r = false → s.pinnedAt d r.ctx r.va r.size = false →
              (∀ x, r.frame ≤ x → x < r.frame + r.size →
                readByte (t.dev d).hbm x = if (s.dev d).holds r.ctx x = true then readByte (s.dev d).hbm x else 0) ∧
              (∀ x, x < r.frame ∨ r.frame + r.size ≤ x → readByte (t.dev d).hbm x = readByte (s.dev d).hbm x) ∧
              ∃ x, (t.dev d).scan = some x ∧ x.req = r ∧ s.now < x.done)))) ∧
      ((s.dev d).requests = [] → exec .scan s = .next s)) ∧
    ∀ x, s.id.dev = d → (s.dev d).scan = some x →
      (s.now < x.done → exec .scan s = .next s) ∧
      (x.done ≤ s.now → (s.dev d).requests = [] → ∃ t, exec .scan s = .next t ∧ (t.dev d).scan = none ∧ t.cores = s.cores ∧
        (s.scanVerdict d x.req = none → x.req.ctx < 16 →
          (s.pinnedAt d x.req.ctx x.req.va x.req.size = true → (t.ctx d x.req.ctx).pages = (s.ctx d x.req.ctx).pages ∧
            (t.dev d).pinned = (s.dev d).pinned + 1) ∧
          (s.pinnedAt d x.req.ctx x.req.va x.req.size = false → ∃ p ∈ (t.ctx d x.req.ctx).pages,
            p.va = x.req.va ∧ p.frame = x.req.frame ∧ p.exec = x.req.exec ∧ p.writable = false ∧ p.seen = s.now + 1)) ∧
        (s.scanVerdict d x.req ≠ none → ∃ y, (t.dev d).failures = (s.dev d).failures ++ [y]))

/-- R52, R56, R61, R62, R150, R151, R277–R280, R318, R322: what the host and firmware write and map (logs 6, 23, 85, 102, 108,
111, 112, 118, 120, 121, 131, 144, 149). -/
def Obligations.HostWritesAndMappings : Prop :=
  Sys2Proof.Claims.hostWrites ∧ Sys2Proof.Claims.hostMemoryWrites ∧ Sys2Proof.Claims.mappings

/-- R84, R118, R261, R273, R274, R309, R316, R318, R327, R328, R330: steps of firmware and of the device's own parts. A
device's lead comes from the offsets that its route shows, is never negative, and reaches it by the leader's message over a
link that is up (log 57), the first of which begins its pace window (log 119); a link that has had no valid flit for 64 ticks
goes down, and takes no flit in those ticks (that a failure is two steps, and that its end takes none between them, is the
model's choice, log 67), one that is down stays down when it fails again, and both ends of a link carry flits after
retraining; a corrected error changes no register and no byte; an uncorrectable one poisons its unit; fuse and RMA commands
move the lifecycle state only where signed and in the state they start from; a token must be signed and bound to the device;
each step of bring-up sets its bit and clears none, and stays before step 2 while no sparing map that R318 allows is given
(the model's reading, log 66), but that power-good of a device that is up and idle resets it (log 86); a thermal trip holds
its device, until its next reset by the model's choice (log 134). -/
def Obligations.DeviceSteps : Prop :=
  ∀ (d n : Nat) (l : BitVec 5) (id : CoreId) (i t0 : Nat) (signed : Bool) (dg nonce : BitVec 256) (m failed : List Nat)
    (devid life : Reg) (u : UnitId) (s : State), l.toNat < 18 →
    (s.deaf d l.toNat = false → ∃ t, exec (.leadMessage d l.toNat) s = .next t ∧ (t.dev d).lead = s.leadOf d ∧
      0 ≤ (t.dev d).lead ∧ t.cores = s.cores ∧ t.runs = s.runs ∧ (∀ k, k ≠ d → t.dev k = s.dev k) ∧
      (s.paceDue d = true → s.onlyDev t d) ∧
      (s.paceDue d = false → ∃ e ∈ t.agenda, e.at' = s.now + 2 ^ 22 ∧ e.who.dev = d ∧ e.act = .paceLoss)) ∧
    (s.deaf d l.toNat = true → exec (.leadMessage d l.toNat) s = .next s) ∧
    ((s.link d l.toNat).up = false → exec (.linkDown d l.toNat) s = .next s ∧
      exec (.flitArrival d l.toNat (.silence t0)) s = .next s) ∧
    ((s.link d l.toNat).up = true → (s.link d l.toNat).silent = none → ∃ t, exec (.linkDown d l.toNat) s = .next t ∧
      (t.link d l.toNat).up = true ∧ (t.link d l.toNat).silent = some (s.now + 64) ∧ t.cores = s.cores ∧ t.runs = s.runs ∧
      ∃ e ∈ t.agenda, e.at' = s.now + 64 ∧ e.act = .flitArrival d l.toNat (.silence s.now)) ∧
    ((s.link d l.toNat).up = true → (s.link d l.toNat).silent = some (t0 + 64) →
      ∃ t, exec (.flitArrival d l.toNat (.silence t0)) s = .next t ∧ (t.link d l.toNat).up = false ∧ s.sameBytes t ∧
        ∀ k, (t.coreAt k).still = (s.coreAt k).still) ∧
    ((s.link d l.toNat).silent ≠ some (t0 + 64) → exec (.flitArrival d l.toNat (.silence t0)) s = .next s) ∧
    (∃ t, exec (.linkRetrain d l.toNat) s = .next t ∧ (t.link d l.toNat).up = true ∧ t.cores = s.cores ∧
      ((s.link d l.toNat).plink.toNat < 18 →
        (t.link (s.link d l.toNat).pdev.toNat (s.link d l.toNat).plink.toNat).up = true)) ∧
    (∃ t, exec (.thermalTrip d) s = .next t ∧ (t.dev d).tripped = true ∧ t.cores = s.cores ∧ t.runs = s.runs ∧
      ∀ k, k ≠ d → (t.dev k).tripped = (s.dev k).tripped) ∧
    (∃ t, exec (.correctedError u) s = .next t ∧ s.sameBytes t ∧
      ∀ k, { (t.coreAt k).still with
              buckets := (s.coreAt k).buckets, wait := (s.coreAt k).wait, counters := (s.coreAt k).counters,
              shadows := (s.coreAt k).shadows, before := (s.coreAt k).before } = (s.coreAt k).still ∧
        t.countersOf k = s.countersOf k ∧ t.shadowsOf k = s.shadowsOf k) ∧
    (i < 48 → ∃ t, exec (.uncorrectableError (.tile id i)) s = .next t ∧ (vget tileZero (t.coreAt id).t i).poison = true ∧
      (vget tileZero (t.coreAt id).t i).data = (vget tileZero (s.coreAt id).t i).data ∧ s.sameBytes t) ∧
    (∃ t, exec (.uncorrectableError (.spLine id i)) s = .next t ∧ i ∈ (t.coreAt id).spPoison ∧ s.sameBytes t) ∧
    (∃ t, exec (.fuseCommand d signed) s = .next t ∧ s.onlyDev t d ∧
      (t.dev d).life = (if signed = true ∧ (s.dev d).life = 0 then 1 else (s.dev d).life)) ∧
    (∃ t, exec (.rmaCommand d signed) s = .next t ∧ s.onlyDev t d ∧
      (t.dev d).life = (if signed = true ∧ (s.dev d).life = 1 then 3 else (s.dev d).life) ∧
      (signed = true → (s.dev d).life = 1 → (t.dev d).tenantKeys = [])) ∧
    (∃ t, exec (.unlockToken d devid life nonce signed) s = .next t ∧ s.onlyDev t d ∧ (t.dev d).wipedSince = false ∧
      ((t.dev d).tokenOk = true ↔ signed = true ∧ devid = (s.dev d).devid ∧ life = (s.dev d).life.setWidth 64 ∧
        nonce = Config.nonce (s.dev d).nonceNo)) ∧
    (∃ t, exec (.attestationRequest d nonce) s = .next t ∧ s.onlyDev t d ∧
      (t.dev d).reports.length = (s.dev d).reports.length + 1 ∧ (t.dev d).measurements = (s.dev d).measurements) ∧
    (n ≠ 0 → ∃ t, exec (.bringUp d n dg ⟨m, failed⟩) s = .next t ∧ t.cores = s.cores ∧
      let mapped := (s.dev d).bootst.getLsbD 2 = true ∨ sparingOk ((s.dev d).marksFailed failed).failed m = true
      ∀ b < 6, (t.dev d).bootst.getLsbD b = ((s.dev d).bootst.getLsbD b ||
        decide (b < n ∧ (b < 2 ∨ mapped) ∧ (b < 4 ∨ s.formed = true)))) ∧
    ((s.dev d).bootst ≠ 0 → (∀ r ∈ s.runs, r.2.live = true → ∀ x ∈ r.2.members, x.1 ≠ d) →
      ∃ t, exec (.bringUp d 0 dg ⟨m, failed⟩) s = .next t ∧ (t.dev d).bootst = 0 ∧
        (t.dev d).life = (if (s.dev d).life = lifeDebug then lifeProduction else (s.dev d).life) ∧
        (∀ k, k.dev = d → t.coreAt k = Core.fresh) ∧ ∀ k, k.dev ≠ d → t.coreAt k = s.coreAt k)

namespace Sys2Proof.Claims

/-- Runs have numbers of their own, and the next one has none yet. -/
def RunsNumbered (s : State) : Prop := (s.runs.map (·.1)).Nodup ∧ ∀ x ∈ s.runs, x.1 < s.nextRun

/-- R63, R65, R80, R278: the drover serves the candidate of the highest class that has one, of the first context after the one
that it last served in the class: a queue head leaves its queue as an itinerary that holds its partitions and departs at the
latest of DEPART, arrival and now plus 3,240, or 7,336 for several members; a readmitted itinerary holds its partitions again
and resumes at Dr, which is the earliest count of R65 and a free number of counts by the model's choice (log 10). It goes on
until it can serve none. -/
def droverServes : Prop :=
  ∀ (s : State), RunsNumbered s →
    let d := s.id.dev
    let lag (ms : List (Nat × Nat)) : Nat := if ms.length = 1 then 3240 else 7336
    (s.nextServed d = none → exec .droverServe s = .next s ∧ ∀ k < 4, ∀ c < 16, (s.candidate d k c).isNone = true) ∧
    (∀ k c x, s.nextServed d = some (k, c, x) → k < 4 ∧ c < 16 ∧ s.candidate d k c = some x ∧
      (∀ k' < 4, k < k' → ∀ c' < 16, (s.candidate d k' c').isNone = true) ∧
      let last := vget 15 (s.dev d).served k
      (last < 16 → ∀ c' < 16, (c' + 15 - last) % 16 < (c + 15 - last) % 16 → (s.candidate d k c').isNone = true)) ∧
    (∀ k c e, s.nextServed d = some (k, c, .head e) →
      ∃ t, exec .droverServe s = .next t ∧ t.cores = s.cores ∧ s.sameBytes t ∧
        vget [] (s.ctx d c).queues k = e :: vget [] (t.ctx d c).queues k ∧
        let r := t.run s.nextRun
        let at' := max (field e.record 384 64) (max (e.arrived + lag e.members) (s.now + lag e.members))
        r.st = .departing ∧ r.record = e.record ∧ r.ctx = c ∧ r.home = d ∧ r.members = e.members ∧ r.params = e.params ∧
          r.cls = k ∧ r.departs = at' ∧ r.base = at' ∧
          (∀ m ∈ e.members, t.partOf m.1 m.2 = ⟨some s.nextRun, false⟩) ∧
          ∃ p ∈ t.agenda, p.at' = at' ∧ p.act = .departure s.nextRun) ∧
    (∀ k c r, s.nextServed d = some (k, c, .readmitted r) →
      ∃ t, exec .droverServe s = .next t ∧ t.cores = s.cores ∧ s.sameBytes t ∧
        let at' := s.now + lag (s.run r).members + Config.resumeDelay s.free
        (t.run r).st = .resuming ∧ (t.run r).departs = at' ∧ (t.run r).savedCores = (s.run r).savedCores ∧
          (∀ m ∈ (s.run r).members, t.partOf m.1 m.2 = ⟨some r, false⟩) ∧ ∃ p ∈ t.agenda, p.at' = at' ∧ p.act = .resume r) ∧
    ((∀ c < 16, ∀ k < 4, (vget [] (s.ctx d c).queues k).length ≤ 16) →
      (s.runs.filter (fun x => x.2.st == .readmitted)).length ≤ 16 →
      ∃ t, exec .droverServe s = .next t ∧ t.nextServed d = none)

/-- R64, R278: entries that have waited more than 2^24 ticks in a class below 3 of a context that does not stand suspended move
to the tail of the next class, in the order of their arrival, and their wait starts anew; one whose next class is full stays. -/
def queuesAge : Prop :=
  ∀ (s : State),
    let d := s.id.dev
    let queue (s : State) (c k : Nat) : List Queued := vget [] (s.ctx d c).queues k
    let due (c k : Nat) (e : Queued) : Bool := !s.heldCtx d c && decide (k < 3 ∧ 2 ^ 24 < s.now - e.since)
    ((∀ c < 16, ∀ k < 3, (queue s c (k + 1)).length + ((queue s c k).filter (due c k)).length ≤ 16) →
      ∃ t, exec .queueAging s = .next t ∧ t.cores = s.cores ∧ t.runs = s.runs ∧
        ∀ c < 16, (queue t c 0 = (queue s c 0).filter (fun e => !due c 0 e)) ∧
          ∀ k < 3, ∃ moved : List Queued, moved.Perm ((queue s c k).filter (due c k)) ∧ moved.Pairwise (fun a b => a.arrived ≤ b.arrived) ∧
            queue t c (k + 1) = (queue s c (k + 1)).filter (fun e => !due c (k + 1) e) ++
              moved.map (fun e => { e with since := s.now })) ∧
    ∀ c k e, s.aged d = [⟨k, c, e⟩] → 16 ≤ (queue s c (k + 1)).length → exec .queueAging s = .next s

/-- R59, R61, R239: an image load keeps the image for departures in the place of one of the same leg table, which is the model's
choice (log 9). Its HBM data
images are laid down. Each tensor image gets the handle that the loader completes (NDM1, dimensions, LOG, LOGSZ, DEPTH 63,
FROZEN 0), its view and base image, and a log area with an empty chain, and its pages become tensor pages; one that needs a
pinned plain page is answered pinned instead (R150, R151; log 113). -/
def imagesLoad : Prop :=
  ∀ (d : Nat) (c : BitVec 4) (im : ItinImage) (s : State),
    let ctx := c.toNat
    let kept (t : State) : Prop := (t.ctx d ctx).images = im :: (s.ctx d ctx).images.filter (fun y => y.legt != im.legt) ∧
      t.cores = s.cores ∧ t.runs = s.runs
    let laid := im.data.filter (fun x => x.space == .hbm)
    (∃ t, exec (.imageLoad d ctx im) s = .next t ∧ kept t) ∧
    (im.tensors = [] → s.memWf → Takes s d ctx (laid.map (fun x => (x.addr, x.bytes.length))) →
      laid.Pairwise (fun x y => x.addr + x.bytes.length ≤ y.addr ∨ y.addr + y.bytes.length ≤ x.addr) →
      ∃ t, exec (.imageLoad d ctx im) s = .next t ∧ kept t ∧
        (∀ x ∈ laid, t.readHbm d ctx x.addr x.bytes.length = x.bytes) ∧
        ∀ y, (∀ x ∈ laid, y < x.addr ∨ x.addr + x.bytes.length ≤ y) → t.hbmByte d ctx y = s.hbmByte d ctx y) ∧
    ∀ x, im.tensors = [x] → laid = [] → s.memWf → hIsSketch x.handle = false →
      1 ≤ x.dims.length → x.dims.length ≤ 4 → (∀ n ∈ x.dims, n < 2 ^ 32) →
      let e := x.dims.foldl (· * ·) 1 * widthOf (hTag x.handle)
      let base := hBase x.handle
      let plain (p : Page) : Prop := p ∈ s.pagesAt d ctx base e ∧ p.tensor = false
      x.bytes.length = e → x.logAt % 2 ^ 21 = 0 → x.logAt < 2 ^ 48 → ceilDiv (4096 + 4 * e) (2 ^ 21) < 2 ^ 16 →
      ((∃ p, plain p ∧ 0 < p.pins s.now) → ∃ t, exec (.imageLoad d ctx im) s = .next t ∧ kept t ∧ s.sameBytes t ∧
        (t.dev d).pinned = (s.dev d).pinned + 1 ∧ (t.ctx d ctx).pages = (s.ctx d ctx).pages) ∧
      ((∀ p, plain p → p.pins s.now = 0) →
        Takes s d ctx [(x.handleAt, 32), (base, e), (x.logAt, 4096 + e)] →
        [(x.handleAt, 32), (base, e), (x.logAt, 4096 + e)].Pairwise (fun a b => a.1 + a.2 ≤ b.1 ∨ b.1 + b.2 ≤ a.1) →
        ∃ t h, exec (.imageLoad d ctx im) s = .next t ∧ kept t ∧
          t.readHbm d ctx x.handleAt 32 = leBytes 32 (BitVec.toNat h) ∧
          (hNd h = x.dims.length ∧ (∀ i < 4, hDim h i = x.dims.getD i 1) ∧ hLog h = x.logAt ∧ hDepth h = 63 ∧
            hFrozen h = false ∧ hLogsz h = ceilDiv (4096 + 4 * e) (2 ^ 21) ∧ hBase h = base ∧ hTid h = hTid x.handle ∧
            hFmt h = hFmt x.handle) ∧
          t.readHbm d ctx base e = x.bytes ∧ t.readHbm d ctx (x.logAt + 4096) e = x.bytes ∧ leNat (t.readHbm d ctx x.logAt 3) = hTid x.handle ∧
          t.chainOf d ctx (tensorOf h) = some [] ∧
          ∀ p ∈ t.pagesAt d ctx base e, p.exec = none → p.tensor = true)

end Sys2Proof.Claims

/-- R54, R63, R64, R82, R234, R239, R259, R263, R316, R326, R329: the periodic and queued steps of a device always end, and
they leave every register and byte of the cores' memories as they are: the scanner, the drover, the aging of queues, the
checks of power, buckets and holds, the loading of an image, the release of a fence, the forming of a group. The drover
serves, entries age, an image is laid down (logs 9, 10, 113). A device whose pace window ends raises pace loss where an
itinerary runs, and paces itself where none does (log 119). A group that firmware may form takes its size and routes where
nothing is queued or running. -/
def Obligations.BackgroundStepsLeaveCores : Prop :=
  Sys2Proof.Claims.droverServes ∧ Sys2Proof.Claims.queuesAge ∧ Sys2Proof.Claims.imagesLoad ∧
  ∀ (d : Nat) (c : BitVec 4) (im : ItinImage) (gs : GroupSet) (r n : Nat) (id : CoreId) (s : State),
    (∀ i ∈ [Instr.scan, .droverServe, .queueAging, .powerCheck, .losslessHoldRequest, .imageLoad d c.toNat im, .groupForm gs],
      ∃ t, exec i s = .next t ∧ t.cores = s.cores) ∧
    (∃ t, exec .bucketLeak s = .next t ∧ (∀ k, { t.coreAt k with buckets := (s.coreAt k).buckets } = s.coreAt k) ∧
      (∀ k x y, k.dev = s.id.dev → (look 0 (x, y) (t.coreAt k).buckets).toNat = (look 0 (x, y) (s.coreAt k).buckets).toNat - 1) ∧
      ∃ e ∈ t.agenda, e.at' = s.now + 2 ^ (s.dev s.id.dev).rasleak.toNat ∧ e.act = .bucketLeak) ∧
    (let due := (s.dev s.id.dev).paceFrom + 2 ^ 22
     (s.now < due → exec .paceLoss s = .next (s.schedDev due phControl s.id.dev .paceLoss)) ∧
     (due ≤ s.now → ∃ t, exec .paceLoss s = .next t ∧ (∀ k, (t.coreAt k).still = (s.coreAt k).still) ∧
      (∃ e ∈ t.agenda, e.at' = s.now + 2 ^ 22 ∧ e.who.dev = s.id.dev ∧ e.act = .paceLoss) ∧
      (∀ x ∈ s.runs, x.2.st = .running → (∃ m ∈ x.2.members, m.1 = s.id.dev) → (s.runs.map (·.1)).Nodup →
        ∃ f ∈ (t.run x.1).faults, f.cause = 0x0C ∧ f.t = s.now ∧ f.dev = s.id.dev ∧ f.lcore = 0xFF) ∧
      (s.runsOn s.id.dev = false → t.runs = s.runs ∧ (t.dev s.id.dev).paceFrom = s.now ∧
        (s.pulses s.id.dev = true → (s.now + 1) ∈ (t.dev s.id.dev).pacePulses)))) ∧
    (∃ t, exec (.fenceRelease r id n) s = .next t ∧ s.sameBytes t ∧ ∀ k, (t.coreAt k).s = (s.coreAt k).s) ∧
    (groupOk gs = false → exec (.groupForm gs) s = .next s) ∧
    (groupOk gs = true → (∀ m, s.busyPart m = false) → ∃ t, exec (.groupForm gs) s = .next t ∧ t.size = gs.size ∧
      t.formed = true ∧ t.routes = gs.routes.map (fun r => { r with h := hopsLatency gs.links r.hops }))

/-! ## Words of the manual for the rules that claims state whole -/

/-- R91, R92: the example words of the compares and predicate words; a predicate above 15 is no operand. -/
def Sys2Proof.Claims.conditionWords : Prop :=
  decode .sqTimed [0x0321882A] = .ok (.cmpLt 0 3 4 5, 1) ∧ decode .sqTimed [0x034B4CFF] = .ok (.cmpiGeu 0 5 12 (-1), 1) ∧
  decode .sqTimed [0x0362063B] = .ok (.pandn 0 4 3 7, 1) ∧ decode .sqTimed [0x03620605] = .ok (.pnot 0 4 3, 1) ∧
  decode .sqTimed [0x03622005] = .error 2

/-- R91, R92: compares and predicate words. -/
def Obligations.SqConditions : Prop := Sys2Proof.Claims.sqCompares ∧ Sys2Proof.Claims.sqPredicateWords ∧ Sys2Proof.Claims.conditionWords

/-- R96: the example word of loop, the limits of its counter and of its label. -/
def Sys2Proof.Claims.loopWords : Prop :=
  decode .sqTimed [0x01229FFD] = .ok (.loop 0 5 1 (-3), 1) ∧
  ∀ (g : BitVec 4) (c : BitVec 6) (stg : BitVec 3) (o : BitVec 12),
    (Instr.loop g c stg o).wellFormed = true ↔ 1 ≤ c.toNat ∧ c.toNat ≤ 31 ∧ o.toInt < 0

/-- R96, R97: the loop word. -/
def Obligations.LoopCountsAndTurns : Prop := Sys2Proof.Claims.loopTurns ∧ Sys2Proof.Claims.loopWords

/-- R114, R115: the example words of trap and eret. -/
def Sys2Proof.Claims.trapWords : Prop :=
  decode .sqTimed [0x01A82000] = .ok (.trap 0 0x41, 1) ∧ decode .sqWaypoint [0x01C00000] = .ok (.eret 0, 1)

/-- R114, R115, R305: trap and eret. -/
def Obligations.Traps : Prop := Sys2Proof.Claims.trapEntersHandlerAndEretReturns ∧ Sys2Proof.Claims.trapFaults ∧ Sys2Proof.Claims.trapWords

/-- R113: the example word of ccnt; another index is reserved. -/
def Sys2Proof.Claims.countWords : Prop :=
  decode .sqTimed [0x07048000] = .ok (.ccntCount 0 9, 1) ∧ decode .sqTimed [0x07048001] = .ok (.ccntLegTick 0 9, 1) ∧
  decode .sqTimed [0x07048002] = .error 2

/-- R113: the counts that ccnt reads. -/
def Obligations.CountWords : Prop := Sys2Proof.Claims.countsRead ∧ Sys2Proof.Claims.countWords

/-- R4, R111, R112, R272, R308, R318, R322, R327: reads and writes of CSRs and of link status, and what the writes do. -/
def Obligations.CsrWords : Prop :=
  Sys2Proof.Claims.statusReads ∧ Sys2Proof.Claims.csrWrites ∧ Sys2Proof.Claims.sharedWritesPerform ∧ Sys2Proof.Claims.controlWrites

/-- R109: the example word of evrd; an index above 5 is reserved; only records posted at an earlier count are seen. -/
def Sys2Proof.Claims.eventWords : Prop :=
  decode .sqWaypoint [0x06850004] = .ok (.evrdRemove 0 10, 1) ∧ decode .sqWaypoint [0x06850005] = .ok (.evrdCount 0 10, 1) ∧
  decode .sqWaypoint [0x06850006] = .error 2 ∧
  ∀ (s : State) (r : BitVec 256), r ∈ s.records ↔ r ∈ (s.ctxOf s.id).evq ∧ (r.extractLsb' 64 64).toNat < s.now

/-- R109: evrd reads the event queue. -/
def Obligations.EventQueueWords : Prop := Sys2Proof.Claims.evrdReads ∧ Sys2Proof.Claims.eventWords

/-- R155–R157: the example words of the address and count words; shifts above 63 are reserved. -/
def Sys2Proof.Claims.addressWords : Prop :=
  decode .ax [0x02032140] = .ok (.aadd 0 3 4 5, 1) ∧ decode .ax [0x020708A8] = .ok (.ashl 0 7 1 2, 1) ∧
  decode .ax [0x023087C0] = .ok (.aaddi 0 16 16 (-64), 1) ∧ decode .ax [0x02B0D000, 0x0FE00041] = .ok (.aliL 0 16 0x41D000, 2) ∧
  decode .ax [0x02C41000] = .ok (.nli 0 2 4096, 1) ∧ decode .ax [0x02E45FFF] = .ok (.naddi 0 2 2 (-1), 1) ∧
  decode .ax [0x03032800] = .ok (.nmov 0 3 5, 1) ∧ decode .ax [0x03260800] = .ok (.amov 0 6 1, 1) ∧
  decode .ax [0x03491800] = .ok (.aswz 0 9 3 0, 1) ∧
  (∀ (g : BitVec 4) (d a : BitVec 5) (m : BitVec 11), ((Instr.ashli g d a m).wellFormed = true ↔ m.toNat ≤ 63) ∧
    ((Instr.ashri g d a m).wellFormed = true ↔ m.toNat ≤ 63)) ∧
  decode .ax [0x03031000 + 0x00100000] = .error 2 ∧ decode .ax [0x03260800 + 0x00008000] = .error 2

/-- R155–R157: the address and count words. -/
def Obligations.AxAddressWords : Prop := Sys2Proof.Claims.axArithmetic ∧ Sys2Proof.Claims.addressWords

/-! ## Sample words -/

/-- R34–R49: words that the manual spells out decode to the instructions that it gives for them: one of each family. -/
def Obligations.SampleWordsDecode : Prop :=
  decode .sqTimed [0x02018829] = .ok (.sub 0 3 4 5, 1) ∧
  decode .sqTimed [0x03820000, 0x0FE02000] = .ok (.addiL 0 4 0 0x400000, 2) ∧
  decode .sqTimed [0x0321882A] = .ok (.cmpLt 0 3 4 5, 1) ∧ decode .sqTimed [0x0362063B] = .ok (.pandn 0 4 3 7, 1) ∧
  decode .sqTimed [0x01229FFD] = .ok (.loop 0 5 1 (-3), 1) ∧ decode .sqWaypoint [0x015FFFF6] = .ok (.jmp (-10), 1) ∧
  decode .sqTimed [0x04438B82] = .ok (.ldsHbm 0 7 5 3 2, 1) ∧ decode .sqTimed [0x04E3057F] = .ok (.wrsSp 0 6 2 2 (-1), 1) ∧
  decode .sqWaypoint [0x06032000] = .ok (.hbind 0 3 8, 1) ∧ decode .sqWaypoint [0x06850004] = .ok (.evrdRemove 0 10, 1) ∧
  decode .ax [0x03491800] = .ok (.aswz 0 9 3 0, 1) ∧ decode .ax [0x04011190] = .ok (.cpHbmSp 0 1 2 3 4, 1) ∧
  decode .mx [0x02100020] = .ok (.mwld 0 true 0 0 32, 1) ∧ decode .mx [0x02D0101F] = .ok (.mdrain 0 true 2 true 15, 1) ∧
  decode .vx [0x02660210, 0x0FE60200] =
    .ok (.vfma 0 0 12 1 2 (some { vc := 12, m := 0, rm := 0, hA := true, hB := false, hC := false, nv := false, x := 0 }), 2) ∧
  decode .ax [0x08040180] = .ok (.papplyAdd 0 4 6, 1) ∧ decode .ax [0x0A250180] = .ok (.skupd 0 5 6, 1) ∧
  decode .ax [0x0C006625] = .ok (.send 0 3 6 2 5, 1)
end

