-- ==== Sys2Proof/Laws/Tables.lean ====
section
/-! SUPPORT. Laws of tables and register files: a read after a write to the same place, and elsewhere. -/

namespace Sys2Proof.Machine

@[simp] theorem look_put_same {κ α : Type} [DecidableEq κ] (d : α) (k : κ) (v : α) (t : Assoc κ α) :
    look d k (put k v t) = v := by
  induction t with
  | nil => simp [put, look]
  | cons x r ih =>
    obtain ⟨k', v'⟩ := x
    by_cases h : k' = k <;> simp [put, look, h, ih]

theorem look_put_ne {κ α : Type} [DecidableEq κ] (d : α) {k k' : κ} (h : k' ≠ k) (v : α) (t : Assoc κ α) :
    look d k' (put k v t) = look d k' t := by
  induction t with
  | nil => simp [put, look, h.symm]
  | cons x r ih =>
    obtain ⟨k₂, v₂⟩ := x
    by_cases h₂ : k₂ = k
    · subst h₂; simp [put, look, h.symm]
    · by_cases h₃ : k₂ = k'
      · subst h₃; simp [put, look, h₂]
      · simp [put, look, h₂, h₃, ih]

theorem look_put {κ α : Type} [DecidableEq κ] (d : α) (k k' : κ) (v : α) (t : Assoc κ α) :
    look d k' (put k v t) = if k' = k then v else look d k' t := by
  by_cases h : k' = k
  · subst h; simp
  · simp [h, look_put_ne d h]

/-- A property of the default and of every entry holds of every read. -/
theorem look_mem {κ α : Type} [DecidableEq κ] {P : α → Prop} {d : α} (hd : P d) {t : Assoc κ α}
    (ht : ∀ x ∈ t, P x.2) (k : κ) : P (look d k t) := by
  induction t with
  | nil => simpa [look] using hd
  | cons x r ih =>
    obtain ⟨k', v'⟩ := x
    by_cases h : k' = k
    · simpa [look, h] using ht (k', v') (by simp)
    · simpa [look, h] using ih (fun y hy => ht y (by simp [hy]))

/-- Every entry of a table with one entry set is the new one or an old one. -/
theorem mem_put {κ α : Type} [DecidableEq κ] {k : κ} {v : α} {t : Assoc κ α} {x : κ × α} (h : x ∈ put k v t) :
    x = (k, v) ∨ x ∈ t := by
  induction t with
  | nil => simpa [put] using h
  | cons y r ih =>
    obtain ⟨k', v'⟩ := y
    by_cases hk : k' = k
    · simp [put, hk] at h; rcases h with h | h <;> simp [h]
    · simp [put, hk] at h
      rcases h with h | h
      · simp [h]
      · rcases ih h with h | h <;> simp [h]

theorem vget_eq {α : Type} {n : Nat} (d : α) (v : Vector α n) (i : Nat) (h : i < n) : vget d v i = v[i] := by
  simp [vget, h]

theorem vget_out {α : Type} {n : Nat} (d : α) (v : Vector α n) (i : Nat) (h : n ≤ i) : vget d v i = d := by
  simp [vget, Nat.not_lt.mpr h]

@[simp] theorem vget_vset_same {α : Type} {n : Nat} (d : α) (v : Vector α n) (i : Nat) (x : α) (h : i < n) :
    vget d (vset v i x) i = x := by
  simp [vget, vset, h]

theorem vget_vset_ne {α : Type} {n : Nat} (d : α) (v : Vector α n) {i j : Nat} (x : α) (h : j ≠ i) :
    vget d (vset v i x) j = vget d v j := by
  by_cases hj : j < n
  · simp [vget, vset, hj, h.symm]
  · simp [vget, hj]

theorem vset_out {α : Type} {n : Nat} (v : Vector α n) (i : Nat) (x : α) (h : n ≤ i) : vset v i x = v := by
  ext j hj
  simp [vset, show i ≠ j by omega]

theorem vget_vset {α : Type} {n : Nat} (d : α) (v : Vector α n) (i j : Nat) (x : α) (h : i < n) :
    vget d (vset v i x) j = if j = i then x else vget d v j := by
  by_cases hj : j = i
  · subst hj; simp [h]
  · simp [hj, vget_vset_ne d v x hj]

/-! ## Bit fields -/

theorem getLsbD_setBits {w : Nat} (v : BitVec w) (lo n x i : Nat) :
    (setBits v lo n x).getLsbD i =
      (decide (i < w) && if lo ≤ i ∧ i < lo + n then x.testBit (i - lo) else v.getLsbD i) := by
  simp only [setBits, BitVec.getLsbD_or, BitVec.getLsbD_and, BitVec.getLsbD_not, BitVec.getLsbD_ofNat,
    Nat.testBit_shiftLeft, Nat.testBit_two_pow_sub_one, Nat.testBit_mod_two_pow]
  by_cases hw : i < w
  · by_cases hlo : lo ≤ i
    · by_cases hn : i < lo + n
      · simp [hw, hlo, hn, show i - lo < n by omega]
      · simp [hw, hlo, hn, show ¬ (i - lo < n) by omega]
    · simp [hw, hlo]
  · simp [hw, BitVec.getLsbD_of_ge v i (by omega)]

end Sys2Proof.Machine
end

