-- ==== Sys2Proof/Laws/State.lean ====
section
/-! SUPPORT. Laws of the state: what each update leaves, and reads behind updates. -/

namespace Sys2Proof.Machine

variable (s : State)

/-! ## setCore -/

@[simp] theorem State.setCore_now (id : CoreId) (c : Core) : (s.setCore id c).now = s.now := rfl
@[simp] theorem State.setCore_cur (id : CoreId) (c : Core) : (s.setCore id c).cur = s.cur := rfl
@[simp] theorem State.setCore_agenda (id : CoreId) (c : Core) : (s.setCore id c).agenda = s.agenda := rfl
@[simp] theorem State.setCore_kept (id : CoreId) (c : Core) : (s.setCore id c).kept = s.kept := rfl
@[simp] theorem State.setCore_seq (id : CoreId) (c : Core) : (s.setCore id c).seq = s.seq := rfl
@[simp] theorem State.setCore_free (id : CoreId) (c : Core) : (s.setCore id c).free = s.free := rfl
@[simp] theorem State.setCore_size (id : CoreId) (c : Core) : (s.setCore id c).size = s.size := rfl
@[simp] theorem State.setCore_formed (id : CoreId) (c : Core) : (s.setCore id c).formed = s.formed := rfl
@[simp] theorem State.setCore_routes (id : CoreId) (c : Core) : (s.setCore id c).routes = s.routes := rfl
@[simp] theorem State.setCore_epoch (id : CoreId) (c : Core) : (s.setCore id c).epoch = s.epoch := rfl
@[simp] theorem State.setCore_trigger (id : CoreId) (c : Core) : (s.setCore id c).trigger = s.trigger := rfl
@[simp] theorem State.setCore_holds (id : CoreId) (c : Core) : (s.setCore id c).holds = s.holds := rfl
@[simp] theorem State.setCore_groupHeld (id : CoreId) (c : Core) : (s.setCore id c).groupHeld = s.groupHeld := rfl
@[simp] theorem State.setCore_groupShadow (id : CoreId) (c : Core) : (s.setCore id c).groupShadow = s.groupShadow := rfl
@[simp] theorem State.setCore_host (id : CoreId) (c : Core) : (s.setCore id c).host = s.host := rfl
@[simp] theorem State.setCore_pool (id : CoreId) (c : Core) : (s.setCore id c).pool = s.pool := rfl
@[simp] theorem State.setCore_indications (id : CoreId) (c : Core) : (s.setCore id c).indications = s.indications := rfl
@[simp] theorem State.setCore_past (id : CoreId) (c : Core) : (s.setCore id c).past = s.past := rfl
@[simp] theorem State.setCore_devs (id : CoreId) (c : Core) : (s.setCore id c).devs = s.devs := rfl
@[simp] theorem State.setCore_runs (id : CoreId) (c : Core) : (s.setCore id c).runs = s.runs := rfl
@[simp] theorem State.setCore_nextRun (id : CoreId) (c : Core) : (s.setCore id c).nextRun = s.nextRun := rfl

/-! ## modCore -/

@[simp] theorem State.modCore_now (id : CoreId) (f : Core → Core) : (s.modCore id f).now = s.now := rfl
@[simp] theorem State.modCore_cur (id : CoreId) (f : Core → Core) : (s.modCore id f).cur = s.cur := rfl
@[simp] theorem State.modCore_agenda (id : CoreId) (f : Core → Core) : (s.modCore id f).agenda = s.agenda := rfl
@[simp] theorem State.modCore_kept (id : CoreId) (f : Core → Core) : (s.modCore id f).kept = s.kept := rfl
@[simp] theorem State.modCore_seq (id : CoreId) (f : Core → Core) : (s.modCore id f).seq = s.seq := rfl
@[simp] theorem State.modCore_free (id : CoreId) (f : Core → Core) : (s.modCore id f).free = s.free := rfl
@[simp] theorem State.modCore_size (id : CoreId) (f : Core → Core) : (s.modCore id f).size = s.size := rfl
@[simp] theorem State.modCore_formed (id : CoreId) (f : Core → Core) : (s.modCore id f).formed = s.formed := rfl
@[simp] theorem State.modCore_routes (id : CoreId) (f : Core → Core) : (s.modCore id f).routes = s.routes := rfl
@[simp] theorem State.modCore_epoch (id : CoreId) (f : Core → Core) : (s.modCore id f).epoch = s.epoch := rfl
@[simp] theorem State.modCore_trigger (id : CoreId) (f : Core → Core) : (s.modCore id f).trigger = s.trigger := rfl
@[simp] theorem State.modCore_holds (id : CoreId) (f : Core → Core) : (s.modCore id f).holds = s.holds := rfl
@[simp] theorem State.modCore_groupHeld (id : CoreId) (f : Core → Core) : (s.modCore id f).groupHeld = s.groupHeld :=
    rfl
@[simp] theorem State.modCore_groupShadow (id : CoreId) (f : Core → Core) : (s.modCore id f).groupShadow = s.groupShadow :=
    rfl
@[simp] theorem State.modCore_host (id : CoreId) (f : Core → Core) : (s.modCore id f).host = s.host := rfl
@[simp] theorem State.modCore_pool (id : CoreId) (f : Core → Core) : (s.modCore id f).pool = s.pool := rfl
@[simp] theorem State.modCore_indications (id : CoreId) (f : Core → Core) : (s.modCore id f).indications = s.indications := rfl
@[simp] theorem State.modCore_past (id : CoreId) (f : Core → Core) : (s.modCore id f).past = s.past := rfl
@[simp] theorem State.modCore_devs (id : CoreId) (f : Core → Core) : (s.modCore id f).devs = s.devs := rfl
@[simp] theorem State.modCore_runs (id : CoreId) (f : Core → Core) : (s.modCore id f).runs = s.runs := rfl
@[simp] theorem State.modCore_nextRun (id : CoreId) (f : Core → Core) : (s.modCore id f).nextRun = s.nextRun := rfl

/-! ## modMe -/

@[simp] theorem State.modMe_now (f : Core → Core) : (s.modMe f).now = s.now := rfl
@[simp] theorem State.modMe_cur (f : Core → Core) : (s.modMe f).cur = s.cur := rfl
@[simp] theorem State.modMe_agenda (f : Core → Core) : (s.modMe f).agenda = s.agenda := rfl
@[simp] theorem State.modMe_kept (f : Core → Core) : (s.modMe f).kept = s.kept := rfl
@[simp] theorem State.modMe_seq (f : Core → Core) : (s.modMe f).seq = s.seq := rfl
@[simp] theorem State.modMe_free (f : Core → Core) : (s.modMe f).free = s.free := rfl
@[simp] theorem State.modMe_size (f : Core → Core) : (s.modMe f).size = s.size := rfl
@[simp] theorem State.modMe_formed (f : Core → Core) : (s.modMe f).formed = s.formed := rfl
@[simp] theorem State.modMe_routes (f : Core → Core) : (s.modMe f).routes = s.routes := rfl
@[simp] theorem State.modMe_epoch (f : Core → Core) : (s.modMe f).epoch = s.epoch := rfl
@[simp] theorem State.modMe_trigger (f : Core → Core) : (s.modMe f).trigger = s.trigger := rfl
@[simp] theorem State.modMe_holds (f : Core → Core) : (s.modMe f).holds = s.holds := rfl
@[simp] theorem State.modMe_groupHeld (f : Core → Core) : (s.modMe f).groupHeld = s.groupHeld := rfl
@[simp] theorem State.modMe_groupShadow (f : Core → Core) : (s.modMe f).groupShadow = s.groupShadow := rfl
@[simp] theorem State.modMe_host (f : Core → Core) : (s.modMe f).host = s.host := rfl
@[simp] theorem State.modMe_pool (f : Core → Core) : (s.modMe f).pool = s.pool := rfl
@[simp] theorem State.modMe_indications (f : Core → Core) : (s.modMe f).indications = s.indications := rfl
@[simp] theorem State.modMe_past (f : Core → Core) : (s.modMe f).past = s.past := rfl
@[simp] theorem State.modMe_devs (f : Core → Core) : (s.modMe f).devs = s.devs := rfl
@[simp] theorem State.modMe_runs (f : Core → Core) : (s.modMe f).runs = s.runs := rfl
@[simp] theorem State.modMe_nextRun (f : Core → Core) : (s.modMe f).nextRun = s.nextRun := rfl

/-! ## setDev -/

@[simp] theorem State.setDev_now (d : Nat) (x : Device) : (s.setDev d x).now = s.now := rfl
@[simp] theorem State.setDev_cur (d : Nat) (x : Device) : (s.setDev d x).cur = s.cur := rfl
@[simp] theorem State.setDev_agenda (d : Nat) (x : Device) : (s.setDev d x).agenda = s.agenda := rfl
@[simp] theorem State.setDev_kept (d : Nat) (x : Device) : (s.setDev d x).kept = s.kept := rfl
@[simp] theorem State.setDev_seq (d : Nat) (x : Device) : (s.setDev d x).seq = s.seq := rfl
@[simp] theorem State.setDev_free (d : Nat) (x : Device) : (s.setDev d x).free = s.free := rfl
@[simp] theorem State.setDev_size (d : Nat) (x : Device) : (s.setDev d x).size = s.size := rfl
@[simp] theorem State.setDev_formed (d : Nat) (x : Device) : (s.setDev d x).formed = s.formed := rfl
@[simp] theorem State.setDev_routes (d : Nat) (x : Device) : (s.setDev d x).routes = s.routes := rfl
@[simp] theorem State.setDev_epoch (d : Nat) (x : Device) : (s.setDev d x).epoch = s.epoch := rfl
@[simp] theorem State.setDev_trigger (d : Nat) (x : Device) : (s.setDev d x).trigger = s.trigger := rfl
@[simp] theorem State.setDev_holds (d : Nat) (x : Device) : (s.setDev d x).holds = s.holds := rfl
@[simp] theorem State.setDev_groupHeld (d : Nat) (x : Device) : (s.setDev d x).groupHeld = s.groupHeld := rfl
@[simp] theorem State.setDev_groupShadow (d : Nat) (x : Device) : (s.setDev d x).groupShadow = s.groupShadow := rfl
@[simp] theorem State.setDev_host (d : Nat) (x : Device) : (s.setDev d x).host = s.host := rfl
@[simp] theorem State.setDev_pool (d : Nat) (x : Device) : (s.setDev d x).pool = s.pool := rfl
@[simp] theorem State.setDev_indications (d : Nat) (x : Device) : (s.setDev d x).indications = s.indications := rfl
@[simp] theorem State.setDev_past (d : Nat) (x : Device) : (s.setDev d x).past = s.past := rfl
@[simp] theorem State.setDev_cores (d : Nat) (x : Device) : (s.setDev d x).cores = s.cores := rfl
@[simp] theorem State.setDev_runs (d : Nat) (x : Device) : (s.setDev d x).runs = s.runs := rfl
@[simp] theorem State.setDev_nextRun (d : Nat) (x : Device) : (s.setDev d x).nextRun = s.nextRun := rfl

/-! ## modDev -/

@[simp] theorem State.modDev_now (d : Nat) (f : Device → Device) : (s.modDev d f).now = s.now := rfl
@[simp] theorem State.modDev_cur (d : Nat) (f : Device → Device) : (s.modDev d f).cur = s.cur := rfl
@[simp] theorem State.modDev_agenda (d : Nat) (f : Device → Device) : (s.modDev d f).agenda = s.agenda := rfl
@[simp] theorem State.modDev_kept (d : Nat) (f : Device → Device) : (s.modDev d f).kept = s.kept := rfl
@[simp] theorem State.modDev_seq (d : Nat) (f : Device → Device) : (s.modDev d f).seq = s.seq := rfl
@[simp] theorem State.modDev_free (d : Nat) (f : Device → Device) : (s.modDev d f).free = s.free := rfl
@[simp] theorem State.modDev_size (d : Nat) (f : Device → Device) : (s.modDev d f).size = s.size := rfl
@[simp] theorem State.modDev_formed (d : Nat) (f : Device → Device) : (s.modDev d f).formed = s.formed := rfl
@[simp] theorem State.modDev_routes (d : Nat) (f : Device → Device) : (s.modDev d f).routes = s.routes := rfl
@[simp] theorem State.modDev_epoch (d : Nat) (f : Device → Device) : (s.modDev d f).epoch = s.epoch := rfl
@[simp] theorem State.modDev_trigger (d : Nat) (f : Device → Device) : (s.modDev d f).trigger = s.trigger := rfl
@[simp] theorem State.modDev_holds (d : Nat) (f : Device → Device) : (s.modDev d f).holds = s.holds := rfl
@[simp] theorem State.modDev_groupHeld (d : Nat) (f : Device → Device) : (s.modDev d f).groupHeld = s.groupHeld := rfl
@[simp] theorem State.modDev_groupShadow (d : Nat) (f : Device → Device) : (s.modDev d f).groupShadow = s.groupShadow :=
    rfl
@[simp] theorem State.modDev_host (d : Nat) (f : Device → Device) : (s.modDev d f).host = s.host := rfl
@[simp] theorem State.modDev_pool (d : Nat) (f : Device → Device) : (s.modDev d f).pool = s.pool := rfl
@[simp] theorem State.modDev_indications (d : Nat) (f : Device → Device) : (s.modDev d f).indications = s.indications := rfl
@[simp] theorem State.modDev_past (d : Nat) (f : Device → Device) : (s.modDev d f).past = s.past := rfl
@[simp] theorem State.modDev_cores (d : Nat) (f : Device → Device) : (s.modDev d f).cores = s.cores := rfl
@[simp] theorem State.modDev_runs (d : Nat) (f : Device → Device) : (s.modDev d f).runs = s.runs := rfl
@[simp] theorem State.modDev_nextRun (d : Nat) (f : Device → Device) : (s.modDev d f).nextRun = s.nextRun := rfl

/-! ## modCtx -/

@[simp] theorem State.modCtx_now (d c : Nat) (f : Ctx → Ctx) : (s.modCtx d c f).now = s.now := rfl
@[simp] theorem State.modCtx_cur (d c : Nat) (f : Ctx → Ctx) : (s.modCtx d c f).cur = s.cur := rfl
@[simp] theorem State.modCtx_agenda (d c : Nat) (f : Ctx → Ctx) : (s.modCtx d c f).agenda = s.agenda := rfl
@[simp] theorem State.modCtx_kept (d c : Nat) (f : Ctx → Ctx) : (s.modCtx d c f).kept = s.kept := rfl
@[simp] theorem State.modCtx_seq (d c : Nat) (f : Ctx → Ctx) : (s.modCtx d c f).seq = s.seq := rfl
@[simp] theorem State.modCtx_free (d c : Nat) (f : Ctx → Ctx) : (s.modCtx d c f).free = s.free := rfl
@[simp] theorem State.modCtx_size (d c : Nat) (f : Ctx → Ctx) : (s.modCtx d c f).size = s.size := rfl
@[simp] theorem State.modCtx_formed (d c : Nat) (f : Ctx → Ctx) : (s.modCtx d c f).formed = s.formed := rfl
@[simp] theorem State.modCtx_routes (d c : Nat) (f : Ctx → Ctx) : (s.modCtx d c f).routes = s.routes := rfl
@[simp] theorem State.modCtx_epoch (d c : Nat) (f : Ctx → Ctx) : (s.modCtx d c f).epoch = s.epoch := rfl
@[simp] theorem State.modCtx_trigger (d c : Nat) (f : Ctx → Ctx) : (s.modCtx d c f).trigger = s.trigger := rfl
@[simp] theorem State.modCtx_holds (d c : Nat) (f : Ctx → Ctx) : (s.modCtx d c f).holds = s.holds := rfl
@[simp] theorem State.modCtx_groupHeld (d c : Nat) (f : Ctx → Ctx) : (s.modCtx d c f).groupHeld = s.groupHeld := rfl
@[simp] theorem State.modCtx_groupShadow (d c : Nat) (f : Ctx → Ctx) : (s.modCtx d c f).groupShadow = s.groupShadow :=
    rfl
@[simp] theorem State.modCtx_host (d c : Nat) (f : Ctx → Ctx) : (s.modCtx d c f).host = s.host := rfl
@[simp] theorem State.modCtx_pool (d c : Nat) (f : Ctx → Ctx) : (s.modCtx d c f).pool = s.pool := rfl
@[simp] theorem State.modCtx_indications (d c : Nat) (f : Ctx → Ctx) : (s.modCtx d c f).indications = s.indications := rfl
@[simp] theorem State.modCtx_past (d c : Nat) (f : Ctx → Ctx) : (s.modCtx d c f).past = s.past := rfl
@[simp] theorem State.modCtx_cores (d c : Nat) (f : Ctx → Ctx) : (s.modCtx d c f).cores = s.cores := rfl
@[simp] theorem State.modCtx_runs (d c : Nat) (f : Ctx → Ctx) : (s.modCtx d c f).runs = s.runs := rfl
@[simp] theorem State.modCtx_nextRun (d c : Nat) (f : Ctx → Ctx) : (s.modCtx d c f).nextRun = s.nextRun := rfl

/-! ## modRun -/

@[simp] theorem State.modRun_now (r : Nat) (f : Run → Run) : (s.modRun r f).now = s.now := rfl
@[simp] theorem State.modRun_cur (r : Nat) (f : Run → Run) : (s.modRun r f).cur = s.cur := rfl
@[simp] theorem State.modRun_agenda (r : Nat) (f : Run → Run) : (s.modRun r f).agenda = s.agenda := rfl
@[simp] theorem State.modRun_kept (r : Nat) (f : Run → Run) : (s.modRun r f).kept = s.kept := rfl
@[simp] theorem State.modRun_seq (r : Nat) (f : Run → Run) : (s.modRun r f).seq = s.seq := rfl
@[simp] theorem State.modRun_free (r : Nat) (f : Run → Run) : (s.modRun r f).free = s.free := rfl
@[simp] theorem State.modRun_size (r : Nat) (f : Run → Run) : (s.modRun r f).size = s.size := rfl
@[simp] theorem State.modRun_formed (r : Nat) (f : Run → Run) : (s.modRun r f).formed = s.formed := rfl
@[simp] theorem State.modRun_routes (r : Nat) (f : Run → Run) : (s.modRun r f).routes = s.routes := rfl
@[simp] theorem State.modRun_epoch (r : Nat) (f : Run → Run) : (s.modRun r f).epoch = s.epoch := rfl
@[simp] theorem State.modRun_trigger (r : Nat) (f : Run → Run) : (s.modRun r f).trigger = s.trigger := rfl
@[simp] theorem State.modRun_holds (r : Nat) (f : Run → Run) : (s.modRun r f).holds = s.holds := rfl
@[simp] theorem State.modRun_groupHeld (r : Nat) (f : Run → Run) : (s.modRun r f).groupHeld = s.groupHeld := rfl
@[simp] theorem State.modRun_groupShadow (r : Nat) (f : Run → Run) : (s.modRun r f).groupShadow = s.groupShadow := rfl
@[simp] theorem State.modRun_host (r : Nat) (f : Run → Run) : (s.modRun r f).host = s.host := rfl
@[simp] theorem State.modRun_pool (r : Nat) (f : Run → Run) : (s.modRun r f).pool = s.pool := rfl
@[simp] theorem State.modRun_indications (r : Nat) (f : Run → Run) : (s.modRun r f).indications = s.indications := rfl
@[simp] theorem State.modRun_past (r : Nat) (f : Run → Run) : (s.modRun r f).past = s.past := rfl
@[simp] theorem State.modRun_devs (r : Nat) (f : Run → Run) : (s.modRun r f).devs = s.devs := rfl
@[simp] theorem State.modRun_cores (r : Nat) (f : Run → Run) : (s.modRun r f).cores = s.cores := rfl
@[simp] theorem State.modRun_nextRun (r : Nat) (f : Run → Run) : (s.modRun r f).nextRun = s.nextRun := rfl

/-! ## sched -/

@[simp] theorem State.sched_now (t ph : Nat) (i : Instr) : (s.sched t ph i).now = s.now := rfl
@[simp] theorem State.sched_cur (t ph : Nat) (i : Instr) : (s.sched t ph i).cur = s.cur := rfl
@[simp] theorem State.sched_kept (t ph : Nat) (i : Instr) : (s.sched t ph i).kept = s.kept := rfl
@[simp] theorem State.sched_free (t ph : Nat) (i : Instr) : (s.sched t ph i).free = s.free := rfl
@[simp] theorem State.sched_size (t ph : Nat) (i : Instr) : (s.sched t ph i).size = s.size := rfl
@[simp] theorem State.sched_formed (t ph : Nat) (i : Instr) : (s.sched t ph i).formed = s.formed := rfl
@[simp] theorem State.sched_routes (t ph : Nat) (i : Instr) : (s.sched t ph i).routes = s.routes := rfl
@[simp] theorem State.sched_epoch (t ph : Nat) (i : Instr) : (s.sched t ph i).epoch = s.epoch := rfl
@[simp] theorem State.sched_trigger (t ph : Nat) (i : Instr) : (s.sched t ph i).trigger = s.trigger := rfl
@[simp] theorem State.sched_holds (t ph : Nat) (i : Instr) : (s.sched t ph i).holds = s.holds := rfl
@[simp] theorem State.sched_groupHeld (t ph : Nat) (i : Instr) : (s.sched t ph i).groupHeld = s.groupHeld := rfl
@[simp] theorem State.sched_groupShadow (t ph : Nat) (i : Instr) : (s.sched t ph i).groupShadow = s.groupShadow := rfl
@[simp] theorem State.sched_host (t ph : Nat) (i : Instr) : (s.sched t ph i).host = s.host := rfl
@[simp] theorem State.sched_pool (t ph : Nat) (i : Instr) : (s.sched t ph i).pool = s.pool := rfl
@[simp] theorem State.sched_indications (t ph : Nat) (i : Instr) : (s.sched t ph i).indications = s.indications := rfl
@[simp] theorem State.sched_past (t ph : Nat) (i : Instr) : (s.sched t ph i).past = s.past := rfl
@[simp] theorem State.sched_devs (t ph : Nat) (i : Instr) : (s.sched t ph i).devs = s.devs := rfl
@[simp] theorem State.sched_cores (t ph : Nat) (i : Instr) : (s.sched t ph i).cores = s.cores := rfl
@[simp] theorem State.sched_runs (t ph : Nat) (i : Instr) : (s.sched t ph i).runs = s.runs := rfl
@[simp] theorem State.sched_nextRun (t ph : Nat) (i : Instr) : (s.sched t ph i).nextRun = s.nextRun := rfl

/-! ## schedAt -/

@[simp] theorem State.schedAt_now (t ph a b c : Nat) (i : Instr) : (s.schedAt t ph a b c i).now = s.now := rfl
@[simp] theorem State.schedAt_cur (t ph a b c : Nat) (i : Instr) : (s.schedAt t ph a b c i).cur = s.cur := rfl
@[simp] theorem State.schedAt_kept (t ph a b c : Nat) (i : Instr) : (s.schedAt t ph a b c i).kept = s.kept := rfl
@[simp] theorem State.schedAt_free (t ph a b c : Nat) (i : Instr) : (s.schedAt t ph a b c i).free = s.free := rfl
@[simp] theorem State.schedAt_size (t ph a b c : Nat) (i : Instr) : (s.schedAt t ph a b c i).size = s.size := rfl
@[simp] theorem State.schedAt_formed (t ph a b c : Nat) (i : Instr) : (s.schedAt t ph a b c i).formed = s.formed := rfl
@[simp] theorem State.schedAt_routes (t ph a b c : Nat) (i : Instr) : (s.schedAt t ph a b c i).routes = s.routes := rfl
@[simp] theorem State.schedAt_epoch (t ph a b c : Nat) (i : Instr) : (s.schedAt t ph a b c i).epoch = s.epoch := rfl
@[simp] theorem State.schedAt_trigger (t ph a b c : Nat) (i : Instr) : (s.schedAt t ph a b c i).trigger = s.trigger := rfl
@[simp] theorem State.schedAt_holds (t ph a b c : Nat) (i : Instr) : (s.schedAt t ph a b c i).holds = s.holds := rfl
@[simp] theorem State.schedAt_groupHeld (t ph a b c : Nat) (i : Instr) : (s.schedAt t ph a b c i).groupHeld = s.groupHeld :=
    rfl
@[simp] theorem State.schedAt_groupShadow (t ph a b c : Nat) (i : Instr) : (s.schedAt t ph a b c i).groupShadow = s.groupShadow :=
    rfl
@[simp] theorem State.schedAt_host (t ph a b c : Nat) (i : Instr) : (s.schedAt t ph a b c i).host = s.host := rfl
@[simp] theorem State.schedAt_pool (t ph a b c : Nat) (i : Instr) : (s.schedAt t ph a b c i).pool = s.pool := rfl
@[simp] theorem State.schedAt_indications (t ph a b c : Nat) (i : Instr) : (s.schedAt t ph a b c i).indications = s.indications := rfl
@[simp] theorem State.schedAt_past (t ph a b c : Nat) (i : Instr) : (s.schedAt t ph a b c i).past = s.past := rfl
@[simp] theorem State.schedAt_devs (t ph a b c : Nat) (i : Instr) : (s.schedAt t ph a b c i).devs = s.devs := rfl
@[simp] theorem State.schedAt_cores (t ph a b c : Nat) (i : Instr) : (s.schedAt t ph a b c i).cores = s.cores := rfl
@[simp] theorem State.schedAt_runs (t ph a b c : Nat) (i : Instr) : (s.schedAt t ph a b c i).runs = s.runs := rfl
@[simp] theorem State.schedAt_nextRun (t ph a b c : Nat) (i : Instr) : (s.schedAt t ph a b c i).nextRun = s.nextRun := rfl

/-! ## schedDev -/

@[simp] theorem State.schedDev_now (t ph d : Nat) (i : Instr) : (s.schedDev t ph d i).now = s.now := rfl
@[simp] theorem State.schedDev_cur (t ph d : Nat) (i : Instr) : (s.schedDev t ph d i).cur = s.cur := rfl
@[simp] theorem State.schedDev_kept (t ph d : Nat) (i : Instr) : (s.schedDev t ph d i).kept = s.kept := rfl
@[simp] theorem State.schedDev_free (t ph d : Nat) (i : Instr) : (s.schedDev t ph d i).free = s.free := rfl
@[simp] theorem State.schedDev_size (t ph d : Nat) (i : Instr) : (s.schedDev t ph d i).size = s.size := rfl
@[simp] theorem State.schedDev_formed (t ph d : Nat) (i : Instr) : (s.schedDev t ph d i).formed = s.formed := rfl
@[simp] theorem State.schedDev_routes (t ph d : Nat) (i : Instr) : (s.schedDev t ph d i).routes = s.routes := rfl
@[simp] theorem State.schedDev_epoch (t ph d : Nat) (i : Instr) : (s.schedDev t ph d i).epoch = s.epoch := rfl
@[simp] theorem State.schedDev_trigger (t ph d : Nat) (i : Instr) : (s.schedDev t ph d i).trigger = s.trigger := rfl
@[simp] theorem State.schedDev_holds (t ph d : Nat) (i : Instr) : (s.schedDev t ph d i).holds = s.holds := rfl
@[simp] theorem State.schedDev_groupHeld (t ph d : Nat) (i : Instr) : (s.schedDev t ph d i).groupHeld = s.groupHeld :=
    rfl
@[simp] theorem State.schedDev_groupShadow (t ph d : Nat) (i : Instr) : (s.schedDev t ph d i).groupShadow = s.groupShadow :=
    rfl
@[simp] theorem State.schedDev_host (t ph d : Nat) (i : Instr) : (s.schedDev t ph d i).host = s.host := rfl
@[simp] theorem State.schedDev_pool (t ph d : Nat) (i : Instr) : (s.schedDev t ph d i).pool = s.pool := rfl
@[simp] theorem State.schedDev_indications (t ph d : Nat) (i : Instr) : (s.schedDev t ph d i).indications = s.indications := rfl
@[simp] theorem State.schedDev_past (t ph d : Nat) (i : Instr) : (s.schedDev t ph d i).past = s.past := rfl
@[simp] theorem State.schedDev_devs (t ph d : Nat) (i : Instr) : (s.schedDev t ph d i).devs = s.devs := rfl
@[simp] theorem State.schedDev_cores (t ph d : Nat) (i : Instr) : (s.schedDev t ph d i).cores = s.cores := rfl
@[simp] theorem State.schedDev_runs (t ph d : Nat) (i : Instr) : (s.schedDev t ph d i).runs = s.runs := rfl
@[simp] theorem State.schedDev_nextRun (t ph d : Nat) (i : Instr) : (s.schedDev t ph d i).nextRun = s.nextRun := rfl

/-! ## drawn -/

@[simp] theorem State.drawn_now : (s.drawn).now = s.now := rfl
@[simp] theorem State.drawn_cur : (s.drawn).cur = s.cur := rfl
@[simp] theorem State.drawn_agenda : (s.drawn).agenda = s.agenda := rfl
@[simp] theorem State.drawn_kept : (s.drawn).kept = s.kept := rfl
@[simp] theorem State.drawn_seq : (s.drawn).seq = s.seq := rfl
@[simp] theorem State.drawn_size : (s.drawn).size = s.size := rfl
@[simp] theorem State.drawn_formed : (s.drawn).formed = s.formed := rfl
@[simp] theorem State.drawn_routes : (s.drawn).routes = s.routes := rfl
@[simp] theorem State.drawn_epoch : (s.drawn).epoch = s.epoch := rfl
@[simp] theorem State.drawn_trigger : (s.drawn).trigger = s.trigger := rfl
@[simp] theorem State.drawn_holds : (s.drawn).holds = s.holds := rfl
@[simp] theorem State.drawn_groupHeld : (s.drawn).groupHeld = s.groupHeld := rfl
@[simp] theorem State.drawn_groupShadow : (s.drawn).groupShadow = s.groupShadow := rfl
@[simp] theorem State.drawn_host : (s.drawn).host = s.host := rfl
@[simp] theorem State.drawn_pool : (s.drawn).pool = s.pool := rfl
@[simp] theorem State.drawn_indications : (s.drawn).indications = s.indications := rfl
@[simp] theorem State.drawn_past : (s.drawn).past = s.past := rfl
@[simp] theorem State.drawn_devs : (s.drawn).devs = s.devs := rfl
@[simp] theorem State.drawn_cores : (s.drawn).cores = s.cores := rfl
@[simp] theorem State.drawn_runs : (s.drawn).runs = s.runs := rfl
@[simp] theorem State.drawn_nextRun : (s.drawn).nextRun = s.nextRun := rfl

/-! ## cancelWord -/

@[simp] theorem State.cancelWord_now (w : WordRef) : (s.cancelWord w).now = s.now := rfl
@[simp] theorem State.cancelWord_cur (w : WordRef) : (s.cancelWord w).cur = s.cur := rfl
@[simp] theorem State.cancelWord_kept (w : WordRef) : (s.cancelWord w).kept = s.kept := rfl
@[simp] theorem State.cancelWord_seq (w : WordRef) : (s.cancelWord w).seq = s.seq := rfl
@[simp] theorem State.cancelWord_free (w : WordRef) : (s.cancelWord w).free = s.free := rfl
@[simp] theorem State.cancelWord_size (w : WordRef) : (s.cancelWord w).size = s.size := rfl
@[simp] theorem State.cancelWord_formed (w : WordRef) : (s.cancelWord w).formed = s.formed := rfl
@[simp] theorem State.cancelWord_routes (w : WordRef) : (s.cancelWord w).routes = s.routes := rfl
@[simp] theorem State.cancelWord_epoch (w : WordRef) : (s.cancelWord w).epoch = s.epoch := rfl
@[simp] theorem State.cancelWord_trigger (w : WordRef) : (s.cancelWord w).trigger = s.trigger := rfl
@[simp] theorem State.cancelWord_holds (w : WordRef) : (s.cancelWord w).holds = s.holds := rfl
@[simp] theorem State.cancelWord_groupHeld (w : WordRef) : (s.cancelWord w).groupHeld = s.groupHeld := rfl
@[simp] theorem State.cancelWord_groupShadow (w : WordRef) : (s.cancelWord w).groupShadow = s.groupShadow := rfl
@[simp] theorem State.cancelWord_host (w : WordRef) : (s.cancelWord w).host = s.host := rfl
@[simp] theorem State.cancelWord_pool (w : WordRef) : (s.cancelWord w).pool = s.pool := rfl
@[simp] theorem State.cancelWord_indications (w : WordRef) : (s.cancelWord w).indications = s.indications := rfl
@[simp] theorem State.cancelWord_past (w : WordRef) : (s.cancelWord w).past = s.past := rfl
@[simp] theorem State.cancelWord_devs (w : WordRef) : (s.cancelWord w).devs = s.devs := rfl
@[simp] theorem State.cancelWord_cores (w : WordRef) : (s.cancelWord w).cores = s.cores := rfl
@[simp] theorem State.cancelWord_runs (w : WordRef) : (s.cancelWord w).runs = s.runs := rfl
@[simp] theorem State.cancelWord_nextRun (w : WordRef) : (s.cancelWord w).nextRun = s.nextRun := rfl

/-! ## lease -/

@[simp] theorem State.lease_now (fam lo hi lam : Nat) : (s.lease fam lo hi lam).now = s.now := rfl
@[simp] theorem State.lease_cur (fam lo hi lam : Nat) : (s.lease fam lo hi lam).cur = s.cur := rfl
@[simp] theorem State.lease_agenda (fam lo hi lam : Nat) : (s.lease fam lo hi lam).agenda = s.agenda := rfl
@[simp] theorem State.lease_kept (fam lo hi lam : Nat) : (s.lease fam lo hi lam).kept = s.kept := rfl
@[simp] theorem State.lease_seq (fam lo hi lam : Nat) : (s.lease fam lo hi lam).seq = s.seq := rfl
@[simp] theorem State.lease_free (fam lo hi lam : Nat) : (s.lease fam lo hi lam).free = s.free := rfl
@[simp] theorem State.lease_size (fam lo hi lam : Nat) : (s.lease fam lo hi lam).size = s.size := rfl
@[simp] theorem State.lease_formed (fam lo hi lam : Nat) : (s.lease fam lo hi lam).formed = s.formed := rfl
@[simp] theorem State.lease_routes (fam lo hi lam : Nat) : (s.lease fam lo hi lam).routes = s.routes := rfl
@[simp] theorem State.lease_epoch (fam lo hi lam : Nat) : (s.lease fam lo hi lam).epoch = s.epoch := rfl
@[simp] theorem State.lease_trigger (fam lo hi lam : Nat) : (s.lease fam lo hi lam).trigger = s.trigger := rfl
@[simp] theorem State.lease_holds (fam lo hi lam : Nat) : (s.lease fam lo hi lam).holds = s.holds := rfl
@[simp] theorem State.lease_groupHeld (fam lo hi lam : Nat) : (s.lease fam lo hi lam).groupHeld = s.groupHeld := rfl
@[simp] theorem State.lease_groupShadow (fam lo hi lam : Nat) : (s.lease fam lo hi lam).groupShadow = s.groupShadow :=
    rfl
@[simp] theorem State.lease_host (fam lo hi lam : Nat) : (s.lease fam lo hi lam).host = s.host := rfl
@[simp] theorem State.lease_pool (fam lo hi lam : Nat) : (s.lease fam lo hi lam).pool = s.pool := rfl
@[simp] theorem State.lease_indications (fam lo hi lam : Nat) : (s.lease fam lo hi lam).indications = s.indications := rfl
@[simp] theorem State.lease_past (fam lo hi lam : Nat) : (s.lease fam lo hi lam).past = s.past := rfl
@[simp] theorem State.lease_devs (fam lo hi lam : Nat) : (s.lease fam lo hi lam).devs = s.devs := rfl
@[simp] theorem State.lease_runs (fam lo hi lam : Nat) : (s.lease fam lo hi lam).runs = s.runs := rfl
@[simp] theorem State.lease_nextRun (fam lo hi lam : Nat) : (s.lease fam lo hi lam).nextRun = s.nextRun := rfl

/-! ## Reads behind updates -/

@[simp] theorem State.coreAt_setCore (id : CoreId) (c : Core) (k : CoreId) :
    (s.setCore id c).coreAt k = if k = id then c else s.coreAt k := by
  simp only [State.coreAt, State.setCore]
  by_cases h : k = id
  · subst h; simp
  · simp [h, look_put_ne]

@[simp] theorem State.coreAt_modCore (id : CoreId) (f : Core → Core) (k : CoreId) :
    (s.modCore id f).coreAt k = if k = id then f (s.coreAt id) else s.coreAt k := by
  simp [State.modCore]

@[simp] theorem State.dev_setDev (d : Nat) (x : Device) (k : Nat) :
    (s.setDev d x).dev k = if k = d then x else s.dev k := by
  simp only [State.dev, State.setDev]
  by_cases h : k = d
  · subst h; simp
  · simp [h, look_put_ne]

@[simp] theorem State.dev_modDev (d : Nat) (f : Device → Device) (k : Nat) :
    (s.modDev d f).dev k = if k = d then f (s.dev d) else s.dev k := by
  simp [State.modDev]

@[simp] theorem State.run_modRun (r : Nat) (f : Run → Run) (k : Nat) :
    (s.modRun r f).run k = if k = r then f (s.run r) else s.run k := by
  simp only [State.run, State.modRun]
  by_cases h : k = r
  · subst h; simp
  · simp [h, look_put_ne]

theorem State.coreAt_congr {s t : State} (h : t.cores = s.cores) (id : CoreId) : t.coreAt id = s.coreAt id := by
  simp [State.coreAt, h]

theorem State.dev_congr {s t : State} (h : t.devs = s.devs) (d : Nat) : t.dev d = s.dev d := by simp [State.dev, h]

theorem State.run_congr {s t : State} (h : t.runs = s.runs) (r : Nat) : t.run r = s.run r := by simp [State.run, h]

@[simp] theorem State.setCore_dev (id : CoreId) (c : Core) (k : Nat) : (s.setCore id c).dev k = s.dev k := rfl
@[simp] theorem State.setCore_run (id : CoreId) (c : Core) (k : Nat) : (s.setCore id c).run k = s.run k := rfl
@[simp] theorem State.setCore_id (id : CoreId) (c : Core) : (s.setCore id c).id = s.id := rfl
@[simp] theorem State.setCore_tick (id : CoreId) (c : Core) : (s.setCore id c).tick = s.tick := rfl
@[simp] theorem State.modCore_dev (id : CoreId) (f : Core → Core) (k : Nat) : (s.modCore id f).dev k = s.dev k := rfl
@[simp] theorem State.modCore_run (id : CoreId) (f : Core → Core) (k : Nat) : (s.modCore id f).run k = s.run k := rfl
@[simp] theorem State.modCore_id (id : CoreId) (f : Core → Core) : (s.modCore id f).id = s.id := rfl
@[simp] theorem State.modCore_tick (id : CoreId) (f : Core → Core) : (s.modCore id f).tick = s.tick := rfl
@[simp] theorem State.modMe_dev (f : Core → Core) (k : Nat) : (s.modMe f).dev k = s.dev k := rfl
@[simp] theorem State.modMe_run (f : Core → Core) (k : Nat) : (s.modMe f).run k = s.run k := rfl
@[simp] theorem State.modMe_id (f : Core → Core) : (s.modMe f).id = s.id := rfl
@[simp] theorem State.modMe_tick (f : Core → Core) : (s.modMe f).tick = s.tick := rfl
@[simp] theorem State.setDev_coreAt (d : Nat) (x : Device) (k : CoreId) : (s.setDev d x).coreAt k = s.coreAt k := rfl
@[simp] theorem State.setDev_run (d : Nat) (x : Device) (k : Nat) : (s.setDev d x).run k = s.run k := rfl
@[simp] theorem State.setDev_id (d : Nat) (x : Device) : (s.setDev d x).id = s.id := rfl
@[simp] theorem State.setDev_tick (d : Nat) (x : Device) : (s.setDev d x).tick = s.tick := rfl
@[simp] theorem State.setDev_me (d : Nat) (x : Device) : (s.setDev d x).me = s.me := rfl
@[simp] theorem State.modDev_coreAt (d : Nat) (f : Device → Device) (k : CoreId) : (s.modDev d f).coreAt k = s.coreAt k := rfl
@[simp] theorem State.modDev_run (d : Nat) (f : Device → Device) (k : Nat) : (s.modDev d f).run k = s.run k := rfl
@[simp] theorem State.modDev_id (d : Nat) (f : Device → Device) : (s.modDev d f).id = s.id := rfl
@[simp] theorem State.modDev_tick (d : Nat) (f : Device → Device) : (s.modDev d f).tick = s.tick := rfl
@[simp] theorem State.modDev_me (d : Nat) (f : Device → Device) : (s.modDev d f).me = s.me := rfl
@[simp] theorem State.modCtx_coreAt (d c : Nat) (f : Ctx → Ctx) (k : CoreId) : (s.modCtx d c f).coreAt k = s.coreAt k := rfl
@[simp] theorem State.modCtx_run (d c : Nat) (f : Ctx → Ctx) (k : Nat) : (s.modCtx d c f).run k = s.run k := rfl
@[simp] theorem State.modCtx_id (d c : Nat) (f : Ctx → Ctx) : (s.modCtx d c f).id = s.id := rfl
@[simp] theorem State.modCtx_tick (d c : Nat) (f : Ctx → Ctx) : (s.modCtx d c f).tick = s.tick := rfl
@[simp] theorem State.modCtx_me (d c : Nat) (f : Ctx → Ctx) : (s.modCtx d c f).me = s.me := rfl
@[simp] theorem State.modRun_coreAt (r : Nat) (f : Run → Run) (k : CoreId) : (s.modRun r f).coreAt k = s.coreAt k := rfl
@[simp] theorem State.modRun_dev (r : Nat) (f : Run → Run) (k : Nat) : (s.modRun r f).dev k = s.dev k := rfl
@[simp] theorem State.modRun_id (r : Nat) (f : Run → Run) : (s.modRun r f).id = s.id := rfl
@[simp] theorem State.modRun_tick (r : Nat) (f : Run → Run) : (s.modRun r f).tick = s.tick := rfl
@[simp] theorem State.modRun_me (r : Nat) (f : Run → Run) : (s.modRun r f).me = s.me := rfl
@[simp] theorem State.sched_coreAt (t ph : Nat) (i : Instr) (k : CoreId) : (s.sched t ph i).coreAt k = s.coreAt k := rfl
@[simp] theorem State.sched_dev (t ph : Nat) (i : Instr) (k : Nat) : (s.sched t ph i).dev k = s.dev k := rfl
@[simp] theorem State.sched_run (t ph : Nat) (i : Instr) (k : Nat) : (s.sched t ph i).run k = s.run k := rfl
@[simp] theorem State.sched_id (t ph : Nat) (i : Instr) : (s.sched t ph i).id = s.id := rfl
@[simp] theorem State.sched_tick (t ph : Nat) (i : Instr) : (s.sched t ph i).tick = s.tick := rfl
@[simp] theorem State.sched_me (t ph : Nat) (i : Instr) : (s.sched t ph i).me = s.me := rfl
@[simp] theorem State.schedAt_coreAt (t ph a b c : Nat) (i : Instr) (k : CoreId) : (s.schedAt t ph a b c i).coreAt k = s.coreAt k := rfl
@[simp] theorem State.schedAt_dev (t ph a b c : Nat) (i : Instr) (k : Nat) : (s.schedAt t ph a b c i).dev k = s.dev k := rfl
@[simp] theorem State.schedAt_run (t ph a b c : Nat) (i : Instr) (k : Nat) : (s.schedAt t ph a b c i).run k = s.run k := rfl
@[simp] theorem State.schedAt_id (t ph a b c : Nat) (i : Instr) : (s.schedAt t ph a b c i).id = s.id := rfl
@[simp] theorem State.schedAt_tick (t ph a b c : Nat) (i : Instr) : (s.schedAt t ph a b c i).tick = s.tick := rfl
@[simp] theorem State.schedAt_me (t ph a b c : Nat) (i : Instr) : (s.schedAt t ph a b c i).me = s.me := rfl
@[simp] theorem State.schedDev_coreAt (t ph d : Nat) (i : Instr) (k : CoreId) : (s.schedDev t ph d i).coreAt k = s.coreAt k := rfl
@[simp] theorem State.schedDev_dev (t ph d : Nat) (i : Instr) (k : Nat) : (s.schedDev t ph d i).dev k = s.dev k := rfl
@[simp] theorem State.schedDev_run (t ph d : Nat) (i : Instr) (k : Nat) : (s.schedDev t ph d i).run k = s.run k := rfl
@[simp] theorem State.schedDev_id (t ph d : Nat) (i : Instr) : (s.schedDev t ph d i).id = s.id := rfl
@[simp] theorem State.schedDev_tick (t ph d : Nat) (i : Instr) : (s.schedDev t ph d i).tick = s.tick := rfl
@[simp] theorem State.schedDev_me (t ph d : Nat) (i : Instr) : (s.schedDev t ph d i).me = s.me := rfl
@[simp] theorem State.drawn_coreAt (k : CoreId) : (s.drawn).coreAt k = s.coreAt k := rfl
@[simp] theorem State.drawn_dev (k : Nat) : (s.drawn).dev k = s.dev k := rfl
@[simp] theorem State.drawn_run (k : Nat) : (s.drawn).run k = s.run k := rfl
@[simp] theorem State.drawn_id : (s.drawn).id = s.id := rfl
@[simp] theorem State.drawn_tick : (s.drawn).tick = s.tick := rfl
@[simp] theorem State.drawn_me : (s.drawn).me = s.me := rfl
@[simp] theorem State.cancelWord_coreAt (w : WordRef) (k : CoreId) : (s.cancelWord w).coreAt k = s.coreAt k := rfl
@[simp] theorem State.cancelWord_dev (w : WordRef) (k : Nat) : (s.cancelWord w).dev k = s.dev k := rfl
@[simp] theorem State.cancelWord_run (w : WordRef) (k : Nat) : (s.cancelWord w).run k = s.run k := rfl
@[simp] theorem State.cancelWord_id (w : WordRef) : (s.cancelWord w).id = s.id := rfl
@[simp] theorem State.cancelWord_tick (w : WordRef) : (s.cancelWord w).tick = s.tick := rfl
@[simp] theorem State.cancelWord_me (w : WordRef) : (s.cancelWord w).me = s.me := rfl
@[simp] theorem State.lease_dev (fam lo hi lam : Nat) (k : Nat) : (s.lease fam lo hi lam).dev k = s.dev k := rfl
@[simp] theorem State.lease_run (fam lo hi lam : Nat) (k : Nat) : (s.lease fam lo hi lam).run k = s.run k := rfl
@[simp] theorem State.lease_id (fam lo hi lam : Nat) : (s.lease fam lo hi lam).id = s.id := rfl
@[simp] theorem State.lease_tick (fam lo hi lam : Nat) : (s.lease fam lo hi lam).tick = s.tick := rfl

@[simp] theorem State.me_modMe (f : Core → Core) : (s.modMe f).me = f s.me := by simp [State.me, State.modMe]

@[simp] theorem State.coreAt_modMe (f : Core → Core) (k : CoreId) :
    (s.modMe f).coreAt k = if k = s.id then f s.me else s.coreAt k := by simp [State.modMe, State.me]

@[simp] theorem State.coreAt_id : s.coreAt s.id = s.me := rfl

/-! ## The bytes as the count before left them (R225) -/

@[simp] theorem State.asLeft_coreAt (d : Nat) (k : CoreId) : (s.asLeft d).coreAt k = s.coreAt k := rfl
@[simp] theorem State.asLeft_run (d : Nat) (k : Nat) : (s.asLeft d).run k = s.run k := rfl
@[simp] theorem State.asLeft_now (d : Nat) : (s.asLeft d).now = s.now := rfl
@[simp] theorem State.asLeft_cur (d : Nat) : (s.asLeft d).cur = s.cur := rfl
@[simp] theorem State.asLeft_cores (d : Nat) : (s.asLeft d).cores = s.cores := rfl
@[simp] theorem State.asLeft_runs (d : Nat) : (s.asLeft d).runs = s.runs := rfl
@[simp] theorem State.asLeft_agenda (d : Nat) : (s.asLeft d).agenda = s.agenda := rfl
@[simp] theorem State.asLeft_past (d : Nat) : (s.asLeft d).past = s.past := rfl
@[simp] theorem State.asLeft_me (d : Nat) : (s.asLeft d).me = s.me := rfl
@[simp] theorem State.asLeft_id (d : Nat) : (s.asLeft d).id = s.id := rfl
@[simp] theorem State.asLeft_tick (d : Nat) : (s.asLeft d).tick = s.tick := rfl

/-- A device's HBM and its poison stand as the count before left them, and no other device changes. -/
@[simp] theorem State.dev_asLeft (d k : Nat) : (s.asLeft d).dev k =
    if k = d then { s.dev d with hbm := (s.pastDev d).hbm, hbmPoison := (s.pastDev d).hbmPoison } else s.dev k := by
  simp [State.asLeft]

/-- The leg record is what the count before left: no write of this count to HBM changes it (R225). -/
theorem State.legRecord_modHbm (s : State) (d : Nat) (m : Memory) (id : CoreId) (leg : Nat) :
    (s.modDev d (fun x => { x with hbm := m })).legRecord id leg = s.legRecord id leg := by
  have hbm : (((s.modDev d (fun x => { x with hbm := m })).asLeft id.dev).dev id.dev).hbm = ((s.asLeft id.dev).dev id.dev).hbm := by
    simp [State.pastDev]
  have ctxs : (((s.modDev d (fun x => { x with hbm := m })).asLeft id.dev).dev id.dev).ctxs = ((s.asLeft id.dev).dev id.dev).ctxs := by
    by_cases h : id.dev = d <;> simp [h]
  simp only [State.legRecord, State.readHbm, State.hbmByte, State.page?, State.ctx, hbm, ctxs]
  rfl

/-! ## The order of effects -/

/-- An effect put in its place is among the effects, and they are. -/
@[simp] theorem mem_insertPend {p q : Pend} {l : List Pend} : q ∈ insertPend p l ↔ q = p ∨ q ∈ l := by
  induction l with
  | nil => simp [insertPend]
  | cons r l ih =>
    unfold insertPend
    split
    · simp
    · simp only [List.mem_cons, ih]
      constructor
      · rintro (h | h | h) <;> simp [h]
      · rintro (h | h | h) <;> simp [h]

end Sys2Proof.Machine
end

