-- ==== Sys2Proof/Laws/Words.lean ====
section
/-! SUPPORT. Laws of checks and words: which fault a word raises, and when it has its effect (R78, R79, R100, R184). -/

namespace Sys2Proof.Machine

@[simp] theorem chk_false (code : Nat) (d : BitVec 256) : chk false code d = none := rfl

@[simp] theorem chk_true (code : Nat) (d : BitVec 256) : chk true code d = some (code, d) := rfl

theorem chk_eq_none {b : Bool} {code : Nat} {d : BitVec 256} : chk b code d = none ↔ b = false := by
  cases b <;> simp

@[simp] theorem firstFault_nil : firstFault [] = none := rfl

@[simp] theorem firstFault_none_cons (l : List Check) : firstFault (none :: l) = firstFault l := rfl

/-- No check fails exactly where each passes. -/
theorem firstFault_eq_none {l : List Check} : firstFault l = none ↔ ∀ c ∈ l, c = none := by
  induction l with
  | nil => simp
  | cons c l ih =>
    cases c with
    | none => simp [ih]
    | some x =>
      obtain ⟨a, b⟩ := x
      simp only [firstFault, List.mem_cons, forall_eq_or_imp, reduceCtorEq, false_and, iff_false]
      split
      · simp
      · split <;> simp

/-- The fault raised is one of the failing checks. -/
theorem firstFault_mem {l : List Check} {x : Nat × BitVec 256} (h : firstFault l = some x) : some x ∈ l := by
  induction l generalizing x with
  | nil => simp at h
  | cons c l ih =>
    cases c with
    | none => simpa using ih h
    | some y =>
      obtain ⟨a, b⟩ := y
      simp only [firstFault] at h
      split at h
      · simp_all
      · rename_i c' d' heq
        split at h
        · simp_all
        · have := ih heq
          simp_all

/-- The fault raised has the lowest code (R78). -/
theorem firstFault_le {l : List Check} {x y : Nat × BitVec 256} (h : firstFault l = some x) (hy : some y ∈ l) :
    x.1 ≤ y.1 := by
  induction l generalizing x with
  | nil => simp at h
  | cons c l ih =>
    cases c with
    | none => exact ih h (by simpa using hy)
    | some z =>
      obtain ⟨a, b⟩ := z
      simp only [firstFault] at h
      split at h
      · rename_i heq
        have := firstFault_eq_none.mp heq
        rcases List.mem_cons.mp hy with hy | hy
        · simp_all
        · exact absurd (this _ hy) (by simp)
      · rename_i c' d' heq
        split at h
        · rcases List.mem_cons.mp hy with hy | hy
          · simp_all
          · have := ih heq hy
            cases h
            simp only at this ⊢
            omega
        · cases h
          rcases List.mem_cons.mp hy with hy | hy
          · cases hy; simp only; omega
          · exact ih heq hy

/-- A word in a place that earns it no code. -/
theorem Cur.bar_eq_none {c : Cur} (h : c.early = false) : c.bar = Option.none := by
  cases hb : c.bar <;> simp_all [Cur.early]

/-- A word whose checks pass has its effect. -/
theorem State.word_next {s : State} {checks : List Check} {eff : State → State} (he : s.cur.early = false)
    (h : firstFault checks = none) : s.word checks eff = .next (eff s) := by
  simp [State.word, Cur.bar_eq_none he, h]

/-- A word whose own checks pass faults with the code that the place of its issue earns it (R75, R78, R184). -/
theorem State.word_early {s : State} {checks : List Check} {eff : State → State} {code : Nat}
    (he : s.cur.bar = some code) (h : firstFault checks = none) : s.word checks eff = .next (s.fault code 0) := by
  simp [State.word, firstFault, he, h]

/-- A word with a failing check faults with that of the lowest code. -/
theorem State.word_fault {s : State} {checks : List Check} {eff : State → State} {x : Nat × BitVec 256}
    (he : s.cur.early = false) (h : firstFault checks = some x) : s.word checks eff = .next (s.fault x.1 x.2) := by
  simp [State.word, Cur.bar_eq_none he, h]

/-- A word answers its effect or a fault. -/
theorem State.word_cases (s : State) (checks : List Check) (eff : State → State) :
    s.word checks eff = .next (eff s) ∨ ∃ c d, s.word checks eff = .next (s.fault c d) := by
  unfold State.word
  split
  · exact .inl rfl
  · exact .inr ⟨_, _, rfl⟩

/-- A waypoint-only word in timed code raises waypoint-only whatever else it would check (R100). -/
theorem State.waypointWord_timed {s : State} {checks : List Check} {eff : State → State} (he : s.cur.early = false)
    (hw : s.cur.word.wp = false) : s.waypointWord checks eff = .next (s.fault 0x54 0) := by
  simp [State.waypointWord, State.word, firstFault, Cur.bar_eq_none he, hw]

/-- A waypoint-only word in waypoint code whose checks pass has its effect. -/
theorem State.waypointWord_next {s : State} {checks : List Check} {eff : State → State} (he : s.cur.early = false)
    (hw : s.cur.word.wp = true) (h : firstFault checks = none) : s.waypointWord checks eff = .next (eff s) := by
  simp [State.waypointWord, State.word, Cur.bar_eq_none he, hw, h]

end Sys2Proof.Machine
end

