-- ==== Sys2Proof/Laws/Faults.lean ====
section
/-! SUPPORT. Laws of faults: what raising one leaves. A fault of a word stops a stream, notes a record and sends flits:
registers, memories and contexts stand (R79). -/

namespace Sys2Proof.Machine

/-- From s to t streams, records and flits may have changed; registers, memories, contexts and links stand. -/
structure State.Calm (s t : State) : Prop where
  now : t.now = s.now
  cur : t.cur = s.cur
  cores : ∀ id, (t.coreAt id).still = (s.coreAt id).still
  hbm : ∀ d, (t.dev d).hbm = (s.dev d).hbm
  ctxs : ∀ d, (t.dev d).ctxs = (s.dev d).ctxs
  life : ∀ d, (t.dev d).life = (s.dev d).life
  host : t.host = s.host
  pool : t.pool = s.pool

theorem State.Calm.refl (s : State) : s.Calm s :=
  ⟨rfl, rfl, fun _ => rfl, fun _ => rfl, fun _ => rfl, fun _ => rfl, rfl, rfl⟩

theorem State.Calm.trans {s t u : State} (h : s.Calm t) (k : t.Calm u) : s.Calm u :=
  ⟨k.now.trans h.now, k.cur.trans h.cur, fun i => (k.cores i).trans (h.cores i), fun d => (k.hbm d).trans (h.hbm d),
    fun d => (k.ctxs d).trans (h.ctxs d), fun d => (k.life d).trans (h.life d), k.host.trans h.host, k.pool.trans h.pool⟩

theorem State.Calm.ite {s a b : State} {p : Prop} [Decidable p] (h : s.Calm a) (k : s.Calm b) :
    s.Calm (if p then a else b) := by
  split
  · exact h
  · exact k

/-- Effects and runs may change freely. -/
theorem State.Calm.of_eq {s t : State} (h₁ : t.now = s.now) (h₂ : t.cur = s.cur) (h₃ : t.cores = s.cores)
    (h₄ : t.devs = s.devs) (h₅ : t.host = s.host) (h₆ : t.pool = s.pool) : s.Calm t :=
  ⟨h₁, h₂, fun id => by rw [State.coreAt_congr h₃], fun d => by rw [State.dev_congr h₄],
    fun d => by rw [State.dev_congr h₄], fun d => by rw [State.dev_congr h₄], h₅, h₆⟩

theorem State.Calm.sched (s : State) (t ph : Nat) (i : Instr) : s.Calm (s.sched t ph i) := .of_eq rfl rfl rfl rfl rfl rfl

theorem State.Calm.schedDev (s : State) (t ph d : Nat) (i : Instr) : s.Calm (s.schedDev t ph d i) :=
  .of_eq rfl rfl rfl rfl rfl rfl

theorem State.Calm.modRun (s : State) (r : Nat) (f : Run → Run) : s.Calm (s.modRun r f) := .of_eq rfl rfl rfl rfl rfl rfl

theorem State.Calm.cancelWord (s : State) (w : WordRef) : s.Calm (s.cancelWord w) := .of_eq rfl rfl rfl rfl rfl rfl

theorem State.Calm.foldl {α : Type} {f : State → α → State} (hf : ∀ (s : State) (a : α), s.Calm (f s a)) (l : List α) (s : State) :
    s.Calm (l.foldl f s) := by
  induction l generalizing s with
  | nil => exact .refl s
  | cons a l ih => exact (hf s a).trans (ih _)

/-- A change of a device that keeps its memory, contexts and lifecycle state. -/
theorem State.Calm.modDev (s : State) (d : Nat) {f : Device → Device}
    (h : ∀ x, (f x).hbm = x.hbm ∧ (f x).ctxs = x.ctxs ∧ (f x).life = x.life) : s.Calm (s.modDev d f) := by
  refine ⟨rfl, rfl, fun _ => rfl, fun k => ?_, fun k => ?_, fun k => ?_, rfl, rfl⟩ <;> by_cases hk : k = d <;> simp [hk, h]

/-- A change of where a stream of a core stands. -/
theorem State.Calm.modStream (s : State) (id : CoreId) (e : Engine) (f : Stream → Stream) :
    s.Calm (s.modCore id (fun c => c.modStream e f)) := by
  refine ⟨rfl, rfl, fun k => ?_, fun _ => rfl, fun _ => rfl, fun _ => rfl, rfl, rfl⟩
  by_cases hk : k = id
  · subst hk; cases e <;> simp [Core.modStream, Core.still]
  · simp [hk]

theorem State.Calm.losslessSoon (s : State) (d : Nat) : s.Calm (s.losslessSoon d) := by
  unfold State.losslessSoon
  split
  · exact .schedDev ..
  · exact .refl s

theorem State.Calm.spoor (s : State) (d : Nat) (x : BitVec 256) : s.Calm (s.spoor d x) := by
  unfold State.spoor
  split
  · exact .refl s
  · refine State.Calm.trans (.modDev s d ?_) (.losslessSoon _ d)
    intro x
    split <;> exact ⟨rfl, rfl, rfl⟩

theorem State.Calm.spoorCore (s : State) (id : CoreId) (e : Engine) (k n : Nat) (p : BitVec 128) :
    s.Calm (s.spoorCore id e k n p) := .spoor ..

theorem State.Calm.spoorCoreOn (s : State) (v : Nat) (id : CoreId) (e : Engine) (k n : Nat) (p : BitVec 128) :
    s.Calm (s.spoorCoreOn v id e k n p) := .spoor ..

theorem State.Calm.sendHalt (s : State) (r t : Nat) (sc : HaltScope) (d c : Nat) : s.Calm (s.sendHalt r t sc d c) :=
  .foldl (fun _ _ => .sched ..) _ s

theorem State.Calm.haltRun (s : State) (r t : Nat) (sc : HaltScope) (d c : Nat) : s.Calm (s.haltRun r t sc d c) := by
  unfold State.haltRun
  simp only
  split
  · exact (State.Calm.modRun s r _).trans (.sendHalt ..)
  · exact .refl s

theorem State.Calm.beginHalt (s : State) (r t : Nat) (sc : HaltScope) (d c : Nat) :
    s.Calm (s.beginHalt r t sc d c) := by
  cases sc
  · exact .haltRun ..
  · exact .foldl (fun _ _ => .haltRun ..) _ s

theorem State.Calm.addFault (s : State) (r : Nat) (f : FaultRec) : s.Calm (s.addFault r f) :=
  (State.Calm.modRun s r _).trans (.spoorCoreOn ..)

/-- Raising a fault leaves registers, memories and contexts as they stand (R79). -/
theorem State.Calm.raiseOn (s : State) (v : Nat) (e : Engine) (w : WordRef) (b : Bool) (c : Nat) (d : BitVec 256) :
    s.Calm (s.raiseOn v e w b c d) := by
  unfold State.raiseOn
  simp only
  split
  · exact .cancelWord s w
  · have key {f : Stream → Stream} {x : FaultRec} {t : State}
        (h : (((s.cancelWord w).modCore w.id (fun c => c.modStream w.eng f)).addFault w.run x).Calm t) : s.Calm t :=
      (State.Calm.cancelWord s w).trans ((State.Calm.modStream _ w.id w.eng f).trans ((State.Calm.addFault _ _ x).trans h))
    cases (s.coreAt w.id).kraal with
    | none => exact key (.beginHalt ..)
    | some k => exact .ite (key (.sched ..)) (key (.beginHalt ..))

theorem State.Calm.raise (s : State) (e : Engine) (w : WordRef) (b : Bool) (c : Nat) (d : BitVec 256) :
    s.Calm (s.raise e w b c d) := .raiseOn ..

theorem State.Calm.fault (s : State) (c : Nat) (d : BitVec 256) : s.Calm (s.fault c d) := .raise ..

theorem State.Calm.deviceFault (s : State) (d c : Nat) (e : Engine) (x : BitVec 256) :
    s.Calm (s.deviceFault d c e x) :=
  State.Calm.trans (State.Calm.trans (.spoor ..) (.foldl (fun _ _ => .modRun ..) _ _)) (.beginHalt ..)

/-! ## A core that has missed a departure (R81) -/

@[simp] theorem Core.stopped_still (c : Core) : c.stopped.still = c.still := rfl

/-- No stream of it runs. -/
theorem Core.stopped_stream (c : Core) {e : Engine} (h : e ∈ engines) : (c.stopped.stream e).st ≠ .running := by
  have stop (st : Stream) : (if st.st = .running then { st with st := .stopped } else st).st ≠ .running := by
    split
    · simp
    · assumption
  cases e <;> first | exact stop _ | simp [engines] at h

theorem State.Calm.missesDeparture (s : State) (id : CoreId) : s.Calm (s.missesDeparture id) :=
  (State.Calm.raise ..).trans
    ⟨rfl, rfl, fun k => by by_cases h : k = id <;> simp [State.missesDeparture, h], fun _ => rfl, fun _ => rfl, fun _ => rfl, rfl, rfl⟩

theorem Core.still_sp {c c' : Core} (h : c'.still = c.still) : c'.sp = c.sp := by
  have := congrArg Core.sp h
  exact this

theorem Core.still_loft {c c' : Core} (h : c'.still = c.still) : c'.loft = c.loft := by
  have := congrArg Core.loft h
  exact this

theorem Core.still_rs {c c' : Core} (h : c'.still = c.still) (i : Nat) : c'.rs i = c.rs i := by
  have := congrArg (Core.rs · i) h
  exact this

theorem Core.still_rp {c c' : Core} (h : c'.still = c.still) (i : Nat) : c'.rp i = c.rp i := by
  have := congrArg (Core.rp · i) h
  exact this

/-- Where registers and memories stand, every byte reads as before. -/
theorem State.Calm.sameBytes {s t : State} (h : s.Calm t) : s.sameBytes t :=
  ⟨fun id x => ⟨by rw [Core.still_sp (h.cores id)], by rw [Core.still_loft (h.cores id)]⟩, fun d x => by rw [h.hbm d],
    fun pool c x => by simp only [State.far, h.host, h.pool]⟩

theorem State.sameBytes.refl (s : State) : s.sameBytes s := ⟨fun _ _ => ⟨rfl, rfl⟩, fun _ _ => rfl, fun _ _ _ => rfl⟩

theorem State.sameBytes.trans {s t u : State} (h : s.sameBytes t) (k : t.sameBytes u) : s.sameBytes u :=
  ⟨fun i x => ⟨(k.1 i x).1.trans (h.1 i x).1, (k.1 i x).2.trans (h.1 i x).2⟩,
    fun d x => (k.2.1 d x).trans (h.2.1 d x), fun p c x => (k.2.2 p c x).trans (h.2.2 p c x)⟩

/-- A change of one core that keeps its SP and LOFT keeps every byte. -/
theorem State.sameBytes.modCore (s : State) (id : CoreId) {f : Core → Core}
    (h : (f (s.coreAt id)).sp = (s.coreAt id).sp ∧ (f (s.coreAt id)).loft = (s.coreAt id).loft) :
    s.sameBytes (s.modCore id f) := by
  refine ⟨fun k x => ?_, fun _ _ => rfl, fun _ _ _ => rfl⟩
  by_cases hk : k = id <;> simp [hk, h]

theorem State.onlyMe.modMe (s : State) (f : Core → Core) : s.onlyMe (s.modMe f) :=
  ⟨rfl, fun k hk => by simp [hk]⟩

/-! ## The kept record (R204, R307) -/

/-- The kept record is one of the records. -/
theorem keptOf_mem {l : List FaultRec} {f : FaultRec} (h : keptOf l = some f) : f ∈ l := by
  induction l generalizing f with
  | nil => simp [keptOf] at h
  | cons g l ih =>
    unfold keptOf at h
    split at h
    · simp_all
    · rename_i k hk
      split at h
      · obtain rfl : k = f := by simpa using h
        exact List.mem_cons_of_mem _ (ih hk)
      · obtain rfl : g = f := by simpa using h
        exact List.mem_cons_self

/-- There is a kept record where there is a record. -/
theorem keptOf_eq_none {l : List FaultRec} : keptOf l = none ↔ l = [] := by
  cases l with
  | nil => simp [keptOf]
  | cons f l =>
    unfold keptOf
    split
    · simp
    · split <;> simp

end Sys2Proof.Machine
end

