-- ==== Sys2Proof/Laws/Memory.lean ====
section
/-! SUPPORT. Laws of memory: canonical form, reads after writes, and little-endian bytes. -/

namespace Sys2Proof.Machine

/-- Every listed address of a tail in canonical form lies above the head's. -/
theorem Memory.wf_cons {a : Nat} {b : Byte} {r : Memory} (h : Memory.wf ((a, b) :: r) = true) :
    b ≠ 0 ∧ Memory.wf r = true ∧ ∀ x ∈ r, a < x.1 := by
  induction r generalizing a b with
  | nil => simpa [Memory.wf] using h
  | cons y r ih =>
    obtain ⟨a', b'⟩ := y
    simp only [Memory.wf, Bool.and_eq_true, decide_eq_true_eq, bne_iff_ne] at h
    have h' : Memory.wf ((a', b') :: r) = true := by simpa [Memory.wf] using h.2
    refine ⟨h.1.1, h', fun x hx => ?_⟩
    rcases List.mem_cons.mp hx with rfl | hx
    · exact h.1.2
    · exact Nat.lt_trans h.1.2 ((ih h').2.2 x hx)

theorem Memory.wf_of {a : Nat} {b : Byte} {r : Memory} (hb : b ≠ 0) (hr : Memory.wf r = true)
    (h : ∀ x ∈ r, a < x.1) : Memory.wf ((a, b) :: r) = true := by
  cases r with
  | nil => simpa [Memory.wf] using hb
  | cons y r =>
    obtain ⟨a', b'⟩ := y
    simp only [Memory.wf, Bool.and_eq_true, decide_eq_true_eq, bne_iff_ne] at hr ⊢
    exact ⟨⟨hb, h (a', b') (by simp)⟩, hr⟩

/-- Addresses listed after a byte is written are the written one and those listed before. -/
theorem mem_writeByte {m : Memory} {x : Nat} {v : Byte} {y : Host.Cell} (h : y ∈ writeByte m x v) :
    y.1 = x ∨ y ∈ m := by
  induction m with
  | nil => by_cases hv : v = 0 <;> simp_all [writeByte]
  | cons z r ih =>
    obtain ⟨a, b⟩ := z
    unfold writeByte at h
    split at h
    · split at h <;> simp_all
      rcases h with h | h <;> simp [h]
    · split at h
      · split at h <;> simp_all
        rcases h with h | h | h <;> simp [h]
      · rcases List.mem_cons.mp h with h | h
        · simp [h]
        · rcases ih h with h | h <;> simp [h]

/-- A write of one byte keeps the canonical form. -/
theorem writeByte_wf {m : Memory} (x : Nat) (v : Byte) (h : Memory.wf m = true) : Memory.wf (writeByte m x v) = true := by
  induction m with
  | nil =>
    unfold writeByte
    split
    · rfl
    · exact Memory.wf_of ‹_› rfl (by simp)
  | cons z r ih =>
    obtain ⟨a, b⟩ := z
    obtain ⟨hb, hr, hlt⟩ := Memory.wf_cons h
    unfold writeByte
    split
    · split
      · exact hr
      · exact Memory.wf_of ‹_› hr hlt
    · split
      · split
        · exact h
        · refine Memory.wf_of ‹_› h (fun y hy => ?_)
          rcases List.mem_cons.mp hy with rfl | hy
          · assumption
          · exact Nat.lt_trans ‹x < a› (hlt y hy)
      · refine Memory.wf_of hb (ih hr) (fun y hy => ?_)
        rcases mem_writeByte hy with hy | hy
        · omega
        · exact hlt y hy

/-- A write keeps the canonical form. -/
theorem writeBytes_wf {m : Memory} (a : Nat) (bs : List Byte) (h : Memory.wf m = true) :
    Memory.wf (writeBytes m a bs) = true := by
  induction bs generalizing m a with
  | nil => exact h
  | cons b r ih => exact ih _ (writeByte_wf _ _ h)

/-- Below every listed address nothing but zero is read. -/
theorem readByte_below {m : Memory} {x : Nat} (h : ∀ y ∈ m, x < y.1) : readByte m x = 0 := by
  cases m with
  | nil => rfl
  | cons z r =>
    obtain ⟨a, b⟩ := z
    have := h (a, b) (by simp)
    simp [readByte, this, show ¬ x = a by simp at this; omega]

/-- A read after a write of one byte. -/
theorem readByte_writeByte {m : Memory} (x y : Nat) (v : Byte) (h : Memory.wf m = true) :
    readByte (writeByte m x v) y = if y = x then v else readByte m y := by
  induction m with
  | nil =>
    unfold writeByte
    split
    · rename_i hv
      by_cases hy : y = x <;> simp [readByte, hy, hv]
    · by_cases hy : y = x <;> simp [readByte, hy]
  | cons z r ih =>
    obtain ⟨a, b⟩ := z
    obtain ⟨hb, hr, hlt⟩ := Memory.wf_cons h
    unfold writeByte
    split
    · rename_i hxa
      subst hxa
      split
      · rename_i hv
        by_cases hy : y = x
        · subst hy; simpa [hv] using readByte_below hlt
        · by_cases hyx : y < x
          · simp [readByte, hy, hyx]
            exact readByte_below (fun z hz => Nat.lt_trans hyx (hlt z hz))
          · simp [readByte, hy, hyx]
      · by_cases hy : y = x <;> simp [readByte, hy]
    · split
      · rename_i hxa hlt'
        split
        · rename_i hv
          by_cases hy : y = x
          · subst hy; simp [readByte, hxa, hlt', hv]
          · simp [hy]
        · by_cases hy : y = x
          · simp [readByte, hy]
          · by_cases hyx : y < x
            · simp [readByte, hy, hyx, show ¬ y = a by omega, show y < a by omega]
            · simp [readByte, hy, hyx]
      · rename_i hxa hnlt
        have ih := ih hr
        by_cases hy : y = x
        · subst hy; simp [readByte, hxa, hnlt]; simpa using ih
        · by_cases hya : y = a
          · subst hya; simp [readByte, hy]
          · by_cases hlt₂ : y < a <;> simp [readByte, hya, hlt₂, hy]
            simpa [hy] using ih

@[simp] theorem readByte_writeByte_same {m : Memory} (x : Nat) (v : Byte) (h : Memory.wf m = true) :
    readByte (writeByte m x v) x = v := by simp [readByte_writeByte x x v h]

theorem readByte_writeByte_ne {m : Memory} {x y : Nat} (v : Byte) (h : Memory.wf m = true) (hy : y ≠ x) :
    readByte (writeByte m x v) y = readByte m y := by simp [readByte_writeByte x y v h, hy]

/-- Outside the written bytes memory reads as before. -/
theorem readByte_writeBytes_out {m : Memory} (a : Nat) (bs : List Byte) (y : Nat) (h : Memory.wf m = true)
    (hy : y < a ∨ a + bs.length ≤ y) : readByte (writeBytes m a bs) y = readByte m y := by
  induction bs generalizing m a with
  | nil => rfl
  | cons b r ih =>
    simp only [writeBytes, List.length_cons] at hy ⊢
    rw [ih (a + 1) (writeByte_wf a b h) (by omega), readByte_writeByte_ne b h (by omega)]

/-- Inside the written bytes memory reads what was written. -/
theorem readByte_writeBytes_in {m : Memory} (a : Nat) (bs : List Byte) (i : Nat) (h : Memory.wf m = true)
    (hi : i < bs.length) : readByte (writeBytes m a bs) (a + i) = bs[i] := by
  induction bs generalizing m a i with
  | nil => simp at hi
  | cons b r ih =>
    cases i with
    | zero =>
      simp only [writeBytes, Nat.add_zero, List.getElem_cons_zero]
      rw [readByte_writeBytes_out _ _ _ (writeByte_wf a b h) (by omega)]
      exact readByte_writeByte_same a b h
    | succ i =>
      simp only [writeBytes, List.length_cons, List.getElem_cons_succ] at hi ⊢
      have := ih (a + 1) i (writeByte_wf a b h) (by omega)
      rwa [show a + 1 + i = a + (i + 1) by omega] at this

@[simp] theorem length_readBytes (m : Memory) (a n : Nat) : (readBytes m a n).length = n := by simp [readBytes]

/-- A read of the bytes just written. -/
theorem readBytes_writeBytes_same {m : Memory} (a : Nat) (bs : List Byte) (h : Memory.wf m = true) :
    readBytes (writeBytes m a bs) a bs.length = bs := by
  apply List.ext_getElem (by simp)
  intro i h₁ h₂
  simp only [readBytes, List.getElem_map, List.getElem_range]
  exact readByte_writeBytes_in a bs i h h₂

@[simp] theorem length_leBytes (n v : Nat) : (leBytes n v).length = n := by
  induction n generalizing v with
  | zero => rfl
  | succ n ih => simp [leBytes, ih]

/-- The number of the bytes of a number. -/
theorem leNat_leBytes (n v : Nat) : leNat (leBytes n v) = v % 256 ^ n := by
  induction n generalizing v with
  | zero => simp [leBytes, leNat, Nat.mod_one]
  | succ n ih =>
    rw [Nat.pow_succ, Nat.mul_comm (256 ^ n) 256, Nat.mod_mul, leBytes, leNat, ih, BitVec.toNat_ofNat]

/-! ## Canonical form of the state -/

theorem Core.memWf_fresh : Core.fresh.memWf = true := rfl

theorem State.reset_memWf : State.reset.memWf := by simp [State.memWf, State.reset]

theorem State.memWf.core {s : State} (h : s.memWf) (id : CoreId) : (s.coreAt id).memWf = true :=
  look_mem (P := fun c : Core => c.memWf = true) Core.memWf_fresh h.2.1 id

theorem State.memWf.hbm {s : State} (h : s.memWf) (d : Nat) : Memory.wf (s.dev d).hbm = true :=
  look_mem (P := fun x : Device => Memory.wf x.hbm = true) rfl h.1 d

theorem State.memWf.setCore {s : State} (h : s.memWf) (id : CoreId) {c : Core} (hc : c.memWf = true) :
    (s.setCore id c).memWf := by
  refine ⟨h.1, fun x hx => ?_, h.2.2⟩
  rcases mem_put hx with rfl | hx
  · exact hc
  · exact h.2.1 x hx

theorem State.memWf.setDev {s : State} (h : s.memWf) (d : Nat) {x : Device} (hx : Memory.wf x.hbm = true) :
    (s.setDev d x).memWf := by
  refine ⟨fun y hy => ?_, h.2⟩
  rcases mem_put hy with rfl | hy
  · exact hx
  · exact h.1 y hy

theorem State.memWf.modCore {s : State} (h : s.memWf) (id : CoreId) {f : Core → Core}
    (hf : ∀ c, c.memWf = true → (f c).memWf = true) : (s.modCore id f).memWf :=
  h.setCore id (hf _ (h.core id))

theorem State.memWf.modDev {s : State} (h : s.memWf) (d : Nat) {f : Device → Device}
    (hf : ∀ x, Memory.wf x.hbm = true → Memory.wf (f x).hbm = true) : (s.modDev d f).memWf :=
  h.setDev d (hf _ (h.hbm d))

theorem State.memWf.modCtx {s : State} (h : s.memWf) (d c : Nat) (f : Ctx → Ctx) : (s.modCtx d c f).memWf :=
  h.modDev d (fun _ hx => hx)

theorem State.memWf.modRun {s : State} (h : s.memWf) (r : Nat) {f : Run → Run}
    (hf : (f (s.run r)).savedCores = (s.run r).savedCores ∨ ∀ y ∈ (f (s.run r)).savedCores, y.2.memWf = true) :
    (s.modRun r f).memWf := by
  refine ⟨h.1, h.2.1, fun x hx => ?_, h.2.2.2⟩
  have hold : ∀ y ∈ (s.run r).savedCores, y.2.memWf = true :=
    look_mem (P := fun z : Run => ∀ y ∈ z.savedCores, y.2.memWf = true) (by simp [Run.none]) h.2.2.1 r
  rcases mem_put hx with rfl | hx
  · rcases hf with hf | hf
    · simpa only [hf] using hold
    · exact hf
  · exact h.2.2.1 x hx

theorem State.memWf.far {s : State} (h : s.memWf) (pool : Bool) (c : Nat) : Memory.wf (s.far pool c) = true := by
  unfold State.far
  split
  · exact look_mem (P := fun m : Memory => Memory.wf m = true) rfl h.2.2.2.2 c
  · exact look_mem (P := fun m : Memory => Memory.wf m = true) rfl h.2.2.2.1 c

theorem State.memWf.setFar {s : State} (h : s.memWf) (pool : Bool) (c : Nat) {m : Memory} (hm : Memory.wf m = true) :
    (s.setFar pool c m).memWf := by
  unfold State.setFar
  split
  · refine ⟨h.1, h.2.1, h.2.2.1, h.2.2.2.1, fun x hx => ?_⟩
    rcases mem_put hx with rfl | hx
    · exact hm
    · exact h.2.2.2.2 x hx
  · refine ⟨h.1, h.2.1, h.2.2.1, fun x hx => ?_, h.2.2.2.2⟩
    rcases mem_put hx with rfl | hx
    · exact hm
    · exact h.2.2.2.1 x hx

/-- A write into HOST or POOL keeps the canonical form. -/
theorem State.memWf.writeFar {s : State} (h : s.memWf) (pool : Bool) (c a : Nat) (bs : List Byte) :
    (s.writeFar pool c a bs).memWf :=
  h.setFar pool c (writeBytes_wf _ _ (h.far pool c))

/-- A write into SP or LOFT keeps the canonical form. -/
theorem Core.writeSpace_memWf {c : Core} (space : Space) (a : Nat) (bs : List Byte) (p : List Nat)
    (h : c.memWf = true) : (c.writeSpace space a bs p).memWf = true := by
  simp only [Core.memWf, Bool.and_eq_true] at h ⊢
  cases space <;> simp [Core.writeSpace, h.1, h.2, writeBytes_wf]

/-- A write into HBM keeps the canonical form. -/
theorem State.memWf.writeHbm {s : State} (h : s.memWf) (d c va : Nat) (bs : List Byte) :
    (s.writeHbm d c va bs).memWf := by
  refine h.modDev d (fun x _ => ?_)
  have key : ∀ (l : List Byte) (m : Memory × Nat), Memory.wf m.1 = true →
      Memory.wf (l.foldl (fun (m : Memory × Nat) b =>
        (if s.takesByte d c m.2 then writeByte m.1 (s.phys d c m.2) b else m.1, m.2 + 1)) m).1 = true := by
    intro l
    induction l with
    | nil => intro m hm; exact hm
    | cons b r ih =>
      intro m hm
      refine ih _ ?_
      dsimp only
      split
      · exact writeByte_wf _ _ hm
      · exact hm
  exact key bs _ (h.hbm d)

end Sys2Proof.Machine
end

