-- ==== Sys2Proof/Laws/Registers.lean ====
section
/-! SUPPORT. Laws of the register files: a read after a write, and what a write leaves. -/

namespace Sys2Proof.Machine

/-! ## s (R38, R97) -/

theorem sSlot_lt (c : Core) {i : Nat} (h : i < 64) : sSlot c i < 64 := by unfold sSlot; split <;> omega

theorem sSlot_inj (c : Core) {i j : Nat} (hi : i < 64) (hj : j < 64) : sSlot c i = sSlot c j ↔ i = j := by
  unfold sSlot
  have := c.rrb.isLt
  split <;> split <;> omega

theorem sSlot_zero (c : Core) {i : Nat} (hi : i < 64) : sSlot c i = 0 ↔ i = 0 := by
  have := sSlot_inj c hi (show 0 < 64 by omega)
  simpa [sSlot] using this

@[simp] theorem Core.rs_zero (c : Core) : c.rs 0 = 0 := by simp [Core.rs]

@[simp] theorem Core.ws_zero (c : Core) (v : Reg) : c.ws 0 v = c := by simp [Core.ws, Core.wsSlot, sSlot]

@[simp] theorem Core.wsSlot_rrb (c : Core) (k : Nat) (v : Reg) : (c.wsSlot k v).rrb = c.rrb := by
  unfold Core.wsSlot; split <;> rfl

@[simp] theorem Core.ws_rrb (c : Core) (i : Nat) (v : Reg) : (c.ws i v).rrb = c.rrb := Core.wsSlot_rrb c _ v

/-- Names stand for the same slots while RRB stands. -/
theorem sSlot_congr {c c' : Core} (h : c'.rrb = c.rrb) (i : Nat) : sSlot c' i = sSlot c i := by simp [sSlot, h]

/-- A read of s after a write by slot. -/
theorem Core.rs_wsSlot (c : Core) {k i : Nat} (v : Reg) (hk : k < 64) (hi : i < 64) :
    (c.wsSlot k v).rs i = if sSlot c i = k ∧ i ≠ 0 then v else c.rs i := by
  have hs := sSlot_congr (Core.wsSlot_rrb c k v) i
  by_cases h0 : k = 0
  · subst h0
    have := sSlot_zero c hi
    by_cases hi0 : i = 0
    · simp [Core.wsSlot, hi0]
    · simp [Core.wsSlot, this, hi0]
  · by_cases hi0 : i = 0
    · simp [Core.rs, hi0]
    · simp only [Core.rs, hs, if_neg hi0]
      simp [Core.wsSlot, h0, hi0, vget_vset, hk]

/-- A read of s after a write by name. -/
theorem Core.rs_ws (c : Core) {i k : Nat} (v : Reg) (hi : i < 64) (hk : k < 64) :
    (c.ws i v).rs k = if k = i ∧ i ≠ 0 then v else c.rs k := by
  rw [Core.ws, Core.rs_wsSlot c v (sSlot_lt c hi) hk]
  simp only [sSlot_inj c hk hi]
  by_cases h : k = i
  · subst h; rfl
  · simp [h]

/-- A write of s changes nothing else of its core. -/
theorem Core.wsSlot_frame (c : Core) (k : Nat) (v : Reg) : { c.wsSlot k v with s := c.s } = c := by
  unfold Core.wsSlot; split <;> rfl

theorem Core.ws_frame (c : Core) (i : Nat) (v : Reg) : { c.ws i v with s := c.s } = c := Core.wsSlot_frame c _ v

@[simp] theorem Core.ws_sp (c : Core) (i : Nat) (v : Reg) : (c.ws i v).sp = c.sp := by
  unfold Core.ws Core.wsSlot; split <;> rfl

@[simp] theorem Core.ws_loft (c : Core) (i : Nat) (v : Reg) : (c.ws i v).loft = c.loft := by
  unfold Core.ws Core.wsSlot; split <;> rfl

/-! ## p (R38) -/

@[simp] theorem Core.rp_zero (c : Core) : c.rp 0 = true := by simp [Core.rp]

@[simp] theorem Core.wp_zero (c : Core) (v : Bool) : c.wp 0 v = c := by simp [Core.wp]

/-- A read of p after a write. -/
theorem Core.rp_wp (c : Core) {i k : Nat} (v : Bool) (hk : k < 16) :
    (c.wp i v).rp k = if k = i ∧ i ≠ 0 then v else c.rp k := by
  by_cases hi : i = 0
  · simp [hi]
  · by_cases hk0 : k = 0
    · simp [Core.rp, hk0, hi]; omega
    · have hb : (k == 0) = false := by simp [hk0]
      simp only [Core.rp, Core.wp, if_neg hi, getLsbD_setBits, hk, hb, decide_true, Bool.true_and, Bool.false_or]
      by_cases h : k = i
      · subst h; cases v <;> simp [hk0]
      · have : ¬ (i ≤ k ∧ k < i + 1) := by omega
        rw [if_neg this]; simp [h]

theorem Core.wp_frame (c : Core) (i : Nat) (v : Bool) : { c.wp i v with p := c.p } = c := by
  unfold Core.wp; split <;> rfl

/-! ## a and n (R154, R160) -/

theorem aSlot_lt (c : Core) {i : Nat} (h : i < 32) : aSlot c i < 32 := by unfold aSlot; split <;> omega

theorem aSlot_inj (c : Core) {i j : Nat} (hi : i < 32) (hj : j < 32) : aSlot c i = aSlot c j ↔ i = j := by
  unfold aSlot
  have := c.arb.isLt
  split <;> split <;> omega

@[simp] theorem Core.wa_arb (c : Core) (i : Nat) (v : Reg) : (c.wa i v).arb = c.arb := rfl

/-- A read of a after a write. -/
theorem Core.ra_wa (c : Core) {i k : Nat} (v : Reg) (hi : i < 32) (hk : k < 32) :
    (c.wa i v).ra k = if k = i then v else c.ra k := by
  have hs : aSlot (c.wa i v) k = aSlot c k := by simp [aSlot]
  simp only [Core.ra, hs]
  simp [Core.wa, vget_vset, aSlot_lt c hi, aSlot_inj c hk hi]

theorem Core.wa_frame (c : Core) (i : Nat) (v : Reg) : { c.wa i v with a := c.a } = c := rfl

/-- A read of n after a write. -/
theorem Core.rn_wn (c : Core) {i k : Nat} (v : BitVec 32) (hi : i < 16) :
    (c.wn i v).rn k = if k = i then v else c.rn k := by
  simp [Core.rn, Core.wn, vget_vset, hi]

theorem Core.wn_frame (c : Core) (i : Nat) (v : BitVec 32) : { c.wn i v with n := c.n } = c := rfl

/-! ## The flags of pushes (R203) -/

@[simp] theorem Core.noteFlags_s (c : Core) (w : WordRef) (f : BitVec 5) : (c.noteFlags w f).s = c.s := rfl
@[simp] theorem Core.noteFlags_t (c : Core) (w : WordRef) (f : BitVec 5) : (c.noteFlags w f).t = c.t := rfl
@[simp] theorem Core.noteFlags_q (c : Core) (w : WordRef) (f : BitVec 5) : (c.noteFlags w f).q = c.q := rfl
@[simp] theorem Core.noteFlags_flagsVx (c : Core) (w : WordRef) (f : BitVec 5) : (c.noteFlags w f).flagsVx = c.flagsVx := rfl
@[simp] theorem Core.noteFlags_flagsMx (c : Core) (w : WordRef) (f : BitVec 5) : (c.noteFlags w f).flagsMx = c.flagsMx := rfl
@[simp] theorem Core.noteFlags_flagRead (c : Core) (w : WordRef) (f : BitVec 5) : (c.noteFlags w f).flagRead = c.flagRead := rfl

/-- A csrr changes nothing but what it notes of the flags it has read. -/
theorem Core.readsFlags_frame (c : Core) (now slot idx : Nat) : { c.readsFlags now slot idx with flagRead := c.flagRead } = c := by
  unfold Core.readsFlags
  split <;> rfl

@[simp] theorem Core.readsFlags_s (c : Core) (now slot idx : Nat) : (c.readsFlags now slot idx).s = c.s := by
  unfold Core.readsFlags
  split <;> rfl

/-- The flags of a lost push that a csrr has read are cleared in the one register that it wrote. -/
theorem Core.unreadFlags_frame (c : Core) (w : WordRef) : { c.unreadFlags w with s := c.s } = c := by
  unfold Core.unreadFlags
  split
  · rfl
  · rename_i k l _
    cases l.find? (fun x => x.1 == w) with
    | none => rfl
    | some x => exact Core.wsSlot_frame c k _

@[simp] theorem Core.unreadFlags_none (c : Core) (w : WordRef) (h : c.flagRead = none) : c.unreadFlags w = c := by
  simp [Core.unreadFlags, h]

end Sys2Proof.Machine
end

