-- ==== Sys2Proof/Tests/Slice0.lean ====
section
/-! SUPPORT. Tests: words that the manual spells out, ill-formed terms, single steps on a small state, and states that
meet the hypotheses of the claims. -/

namespace Sys2Proof.Tests

-- One test after another: tests that wait for the kernel side by side would each hold a thread.
set_option Elab.async false

open Sys2Proof Sys2Proof.Machine Sys2Proof.Claims

/-! ## A small state -/

/-- Core 0 of partition 0 of device 0. -/
def c0 : CoreId := ⟨0, 0, 0⟩
/-- Another core of the partition. -/
def c1 : CoreId := ⟨0, 0, 1⟩

/-- A word of an engine at leg tick 64. -/
def wordOf (e : Engine) (wp : Bool) : WordRef := ⟨c0, 1, e, 0, 64, 64, wp⟩

/-- An itinerary of two members that runs. Its herd 0 holds two cores of the first, herd 1 is empty, herd 2 holds the
other core; its scope 0 holds core 0, scope 1 none. -/
def run1 : Run :=
  { Run.none with members := [(0, 0), (1, 0)], st := .running, base := 36, herds := [[c0, c1], [], [c1]], scopes := [[c0], []] }

/-- A stream that runs. -/
def running : Stream := startStream 0x1000 0

/-- Three pages of 64 KiB: data at 0, timed code at 0x10000, waypoint code at 0x20000. -/
def pages : List Page :=
  [⟨0, 0x10000, 0, none, true, false, 0, [], 0⟩, ⟨0x10000, 0x10000, 0x10000, some 0, false, false, 0, [], 0⟩,
   ⟨0x20000, 0x10000, 0x20000, some 1, false, false, 0, [], 0⟩]

/-- A device whose contexts have those pages, at control level or not. -/
def device (control : Bool) : Device :=
  { Device.reset with ctxs := Vector.replicate 16 { Ctx.reset with pages := pages, control := control, hostWin := 0x1000 } }

/-- The state in which a word of an engine executes on a core and a device. -/
def st (e : Engine) (wp : Bool) (c : Core) (x : Device) : State :=
  { State.reset with
    now := 100, cur := ⟨wordOf e wp, 0x1000, 0, none⟩, runs := [(1, run1)], nextRun := 2, devs := [(0, x)],
    cores := [(c0, { c with run := some 1, base := 36, sq := running, vx := running, mx := running, ax := running })] }

/-- A timed word of SQ on a fresh core. -/
def sq : State := st .sq false Core.fresh (device false)
/-- A waypoint word of SQ on a fresh core. -/
def wp : State := st .sq true Core.fresh (device false)
/-- The same at control level. -/
def wpc : State := st .sq true Core.fresh (device true)
/-- Words of the other engines on a fresh core. -/
def ax : State := st .ax false Core.fresh (device false)
def vx : State := st .vx false Core.fresh (device false)
def mx : State := st .mx false Core.fresh (device false)

/-- The state after an outcome, where there is one. -/
def after (o : Out) : State :=
  match o with
  | .next t => t
  | _ => State.reset

/-- The registers of the core of the word. -/
def set (s : State) (f : Core → Core) : State := s.modMe f


/-! ## Words of every constructor, from the encoding tables of the opcode table and from the examples of the manual -/

theorem decodes_shared :
    decode .sqTimed [0xA000047C] = .ok (.idle 10 1148, 1) ∧
    decode .sqTimed [0xF0200000] = .ok (.endW 15, 1) ∧
    decode .sqTimed [0x4055E000] = .ok (.tkset 4 43 true true, 1) ∧
    decode .sqTimed [0x9077A000] = .ok (.tkchk 9 47 false true, 1) ∧
    decode .sqTimed [0x70D40000] = .ok (.join 7 5, 1) ∧
    decode .sqTimed [0xC0E00000] = .ok (.yieldW 12, 1) ∧
    decode .vx [0x10A09AFD] = .ok (.rep 1 9 2813, 1) ∧
    decode .ax [0x50C4FF00] = .ok (.repn 5 79 15, 1) ∧
    decode .sqTimed [0x00800000, 0x0FE0000C] = .ok (.mark 0 12, 2) ∧
    decode .sqTimed [0x00A80000, 0x0FE00004] = .ok (.fork 0 .vx 4, 2) ∧
    decode .sqTimed [0x00B00000, 0x0FE00004] = .ok (.fork 0 .mx 4, 2) ∧
    decode .sqTimed [0x00B80000, 0x0FE00004] = .ok (.fork 0 .ax 4, 2) ∧
    decode .sqTimed [0x00DC0000] = .ok (.join 0 7, 1) ∧
    decode .vx [0x00000026] = .ok (.idle 0 38, 1) := by
  refine ⟨?_, ?_, ?_, ?_, ?_, ?_, ?_, ?_, ?_, ?_, ?_, ?_, ?_, ?_⟩ <;> rfl

theorem decodes_sqArith :
    decode .sqTimed [0xA20A9F68] = .ok (.add 10 21 15 45, 1) ∧
    decode .sqTimed [0xF20CC529] = .ok (.sub 15 25 34 37, 1) ∧
    decode .sqTimed [0x420FA4EA] = .ok (.andR 4 31 18 29, 1) ∧
    decode .sqTimed [0x9212CACB] = .ok (.orR 9 37 37 25, 1) ∧
    decode .sqTimed [0xD214AA8C] = .ok (.xorR 13 41 21 17, 1) ∧
    decode .sqTimed [0x2217D04D] = .ok (.shl 2 47 40 9, 1) ∧
    decode .sqTimed [0x721AB02E] = .ok (.shr 7 53 24 5, 1) ∧
    decode .sqTimed [0xC21CD7EF] = .ok (.sra 12 57 43 61, 1) ∧
    decode .sqTimed [0x131FB7C8] = .ok (.mul 1 63 27 57, 1) ∧
    decode .sqTimed [0x5301DD89] = .ok (.mulh 5 3 46 49, 1) ∧
    decode .sqTimed [0xA304BD4A] = .ok (.mulhu 10 9 30 41, 1) ∧
    decode .sqTimed [0xF307E32B] = .ok (.divS 15 15 49 37, 1) ∧
    decode .sqTimed [0x4309C2EC] = .ok (.divu 4 19 33 29, 1) ∧
    decode .sqTimed [0x830CE8AD] = .ok (.rem 8 25 52 21, 1) ∧
    decode .sqTimed [0xD30FC88E] = .ok (.remu 13 31 36 17, 1) ∧
    decode .sqTimed [0x2231EEC9] = .ok (.addi 2 35 55 201, 1) ∧
    decode .sqTimed [0x7254CE41] = .ok (.andi 7 41 39 65, 1) ∧
    decode .sqTimed [0xC277F53D] = .ok (.ori 12 47 58 317, 1) ∧
    decode .sqTimed [0x0299D417] = .ok (.shli 0 51 42 23, 1) ∧
    decode .sqTimed [0x52BCFA17] = .ok (.shri 5 57 61 23, 1) ∧
    decode .sqTimed [0xA2DFDA17] = .ok (.srai 10 63 45 23, 1) ∧
    decode .sqTimed [0xF2E180A1] = .ok (.xori 15 3 0 161, 1) ∧
    decode .sqTimed [0x02018829] = .ok (.sub 0 3 4 5, 1) ∧
    decode .sqTimed [0x022201FE] = .ok (.addi 0 4 0 (-2), 1) ∧
    decode .sqTimed [0x03820000, 0x0FE02000] = .ok (.addiL 0 4 0 0x400000, 2) ∧
    decode .sqTimed [0x03A62007, 0x0FE02001] = .ok (.oriL 0 12 16 0x400207, 2) := by
  refine ⟨?_, ?_, ?_, ?_, ?_, ?_, ?_, ?_, ?_, ?_, ?_, ?_, ?_, ?_, ?_, ?_, ?_, ?_, ?_, ?_, ?_, ?_, ?_, ?_, ?_, ?_⟩ <;> rfl

theorem decodes_sqConditions :
    decode .sqTimed [0xD321E668] = .ok (.cmpEq 13 3 51 13, 1) ∧
    decode .sqTimed [0x23248C29] = .ok (.cmpNe 2 9 6 5, 1) ∧
    decode .sqTimed [0x7326EC0A] = .ok (.cmpLt 7 13 54 1, 1) ∧
    decode .sqTimed [0xB32193CB] = .ok (.cmpGe 11 3 9 57, 1) ∧
    decode .sqTimed [0x0324F3AC] = .ok (.cmpLtu 0 9 57 53, 1) ∧
    decode .sqTimed [0x5326996D] = .ok (.cmpGeu 5 13 12 45, 1) ∧
    decode .sqTimed [0xA3463C65] = .ok (.cmpiEq 10 3 60 101, 1) ∧
    decode .sqTimed [0xF3524F61] = .ok (.cmpiNe 15 9 15 97, 1) ∧
    decode .sqTimed [0x335ABFD9] = .ok (.cmpiLt 3 13 63 217, 1) ∧
    decode .sqTimed [0x8346D251] = .ok (.cmpiGe 8 3 18 81, 1) ∧
    decode .sqTimed [0xD34F024D] = .ok (.cmpiLtu 13 7 2 77, 1) ∧
    decode .sqTimed [0x235B55C5] = .ok (.cmpiGeu 2 13 21 197, 1) ∧
    decode .sqTimed [0x63618A68] = .ok (.pand 6 3 5 13, 1) ∧
    decode .sqTimed [0xB3639049] = .ok (.por 11 7 8 9, 1) ∧
    decode .sqTimed [0x0366900A] = .ok (.pxor 0 13 8 1, 1) ∧
    decode .sqTimed [0x5361964B] = .ok (.pandn 5 3 11 9, 1) ∧
    decode .sqTimed [0xA363962C] = .ok (.porn 10 7 11 5, 1) ∧
    decode .sqTimed [0xE3669C05] = .ok (.pnot 14 13 14, 1) := by
  refine ⟨?_, ?_, ?_, ?_, ?_, ?_, ?_, ?_, ?_, ?_, ?_, ?_, ?_, ?_, ?_, ?_, ?_, ?_⟩ <;> rfl

theorem decodes_sqControl :
    decode .sqTimed [0x31061487] = .ok (.brb 3 3 5255, 1) ∧
    decode .sqTimed [0x810F29C6] = .ok (.brbN 8 7 10694, 1) ∧
    decode .sqTimed [0xD1249FFD] = .ok (.loop 13 9 1 4093, 1) ∧
    decode .sqWaypoint [0x01400026] = .ok (.jmp 38, 1) ∧
    decode .sqWaypoint [0x0160032F] = .ok (.call 815, 1) ∧
    decode .sqWaypoint [0x01800000] = .ok (.ret, 1) ∧
    decode .sqTimed [0x01A22000] = .ok (.trap 0 17, 1) ∧
    decode .sqTimed [0x51C00000] = .ok (.eret 5, 1) ∧
    decode .sqWaypoint [0x015FFFF6] = .ok (.jmp (-10), 1) := by
  refine ⟨?_, ?_, ?_, ?_, ?_, ?_, ?_, ?_, ?_⟩ <;> rfl

theorem decodes_sqMemory :
    decode .sqTimed [0x940EB4D7] = .ok (.ldsSp 9 29 26 1 87, 1) ∧
    decode .sqTimed [0xE43094F3] = .ok (.ldsLoft 14 33 10 1 115, 1) ∧
    decode .sqTimed [0x3453BA8F] = .ok (.ldsHbm 3 39 29 1 15, 1) ∧
    decode .sqTimed [0x84769AAB] = .ok (.ldsPeer 8 45 13 1 43, 1) ∧
    decode .sqTimed [0xD498C0C7] = .ok (.ldsHost 13 49 32 1 71, 1) ∧
    decode .sqTimed [0x14A3A0C8] = .ok (.ldpSp 1 7 16 1 72, 1) ∧
    decode .sqTimed [0x64C6C6E4] = .ok (.ldpHbm 6 13 35 1 100, 1) ∧
    decode .sqTimed [0xB4E0A680] = .ok (.wrsSp 11 1 19 1 0, 1) ∧
    decode .sqTimed [0x0503CC9C] = .ok (.wrsHost 0 7 38 1 28, 1) ∧
    decode .sqTimed [0x45201616] = .ok (.pfh 4 11 22, 1) := by
  refine ⟨?_, ?_, ?_, ?_, ?_, ?_, ?_, ?_, ?_, ?_⟩ <;> rfl

theorem decodes_sqSystem :
    decode .sqTimed [0x9611A400] = .ok (.hbind 9 17 41, 1) ∧
    decode .sqTimed [0xE6370000] = .ok (.hunbind 14 23, 1) ∧
    decode .sqTimed [0x365BB110] = .ok (.hset 3 27 44 17, 1) ∧
    decode .sqTimed [0x866170D0] = .ok (.hget 8 1 28 13, 1) ∧
    decode .sqTimed [0xC6938003] = .ok (.evrdRead 12 39 3, 1) ∧
    decode .sqTimed [0x16958004] = .ok (.evrdRemove 1 43, 1) ∧
    decode .sqTimed [0x66988005] = .ok (.evrdCount 6 49, 1) ∧
    decode .sqTimed [0xB6A00000] = .ok (.evwait 11, 1) ∧
    decode .sqTimed [0x06DD8022] = .ok (.csrr 0 59 34, 1) ∧
    decode .sqTimed [0x46E08010] = .ok (.csrw 4 1 16, 1) ∧
    decode .sqTimed [0x97028000] = .ok (.ccntCount 9 5, 1) ∧
    decode .sqTimed [0xE7058001] = .ok (.ccntLegTick 14 11, 1) ∧
    decode .sqTimed [0x7740030A] = .ok (.kclose 7 778, 1) ∧
    decode .sqTimed [0xC7600000] = .ok (.pace 12, 1) ∧
    decode .sqTimed [0x17908103] = .ok (.lstat 1 33 259, 1) ∧
    decode .sqTimed [0x67AA0C00] = .ok (.xfence 6 2 4 3, 1) ∧
    decode .sqTimed [0xB7CD6000] = .ok (.brk 11 107, 1) ∧
    decode .sqTimed [0xF7F88000] = .ok (.trig 15 49, 1) ∧
    decode .sqTimed [0x481A8005] = .ok (.fuserd 4 53 5, 1) ∧
    decode .sqTimed [0x98200000] = .ok (.keywipe 9, 1) ∧
    decode .sqTimed [0xE8400000] = .ok (.dbgopen 14, 1) ∧
    decode .sqTimed [0x28628001] = .ok (.measure 2 5 1, 1) ∧
    decode .sqTimed [0x78858000] = .ok (.spoorMarker 7 11, 1) ∧
    decode .sqTimed [0xC8878001] = .ok (.spoorClassMask 12 15, 1) ∧
    decode .sqTimed [0x0720E00C, 0x0FE00028] = .ok (.kopen 0 7 12 40, 2) ∧
    decode .sqTimed [0x07A90C00] = .ok (.xfence 0 2 2 3, 1) ∧
    decode .sqTimed [0x07B18000] = .ok (.xfence 0 4 3 0, 1) ∧
    decode .sqWaypoint [0x06850004] = .ok (.evrdRemove 0 10, 1) := by
  refine ⟨?_, ?_, ?_, ?_, ?_, ?_, ?_, ?_, ?_, ?_, ?_, ?_, ?_, ?_, ?_, ?_, ?_, ?_, ?_, ?_, ?_, ?_, ?_, ?_, ?_, ?_, ?_, ?_⟩ <;> rfl

theorem decodes_vxFloat :
    decode .vx [0x12022268] = .ok (.vadd 1 0 4 17 13 none, 1) ∧
    decode .vx [0x6222AC80] = .ok (.vsub 6 0 5 22 16 none, 1) ∧
    decode .vx [0xA2430898] = .ok (.vmul 10 0 6 4 19 none, 1) ∧
    decode .vx [0xF26392B0] = .ok (.vfma 15 0 7 9 22 none, 1) ∧
    decode .vx [0x42841CC8] = .ok (.vfms 4 0 8 14 25 none, 1) ∧
    decode .vx [0x92A4A628] = .ok (.vfnma 9 0 9 19 5 none, 1) ∧
    decode .vx [0xE2C53040] = .ok (.vmax 14 0 10 24 8 none, 1) ∧
    decode .vx [0x22E58C58] = .ok (.vmin 2 0 11 6 11 none, 1) ∧
    decode .vx [0x73061600] = .ok (.vabs 7 0 12 11 none, 1) ∧
    decode .vx [0xC326A000] = .ok (.vneg 12 0 13 16 none, 1) ∧
    decode .vx [0x536786B8] = .ok (.vsel 5 0 15 3 23 none, 1) ∧
    decode .vx [0xA3881000] = .ok (.vmov 10 0 16 8 none, 1) ∧
    decode .vx [0xF3A89A00] = .ok (.vbcast 15 0 17 13 none, 1) ∧
    decode .vx [0x02628210] = .ok (.vfma 0 0 5 1 2 none, 1) ∧
    decode .vx [0x0221882A, 0x0FE1A400] = .ok (.vsub 0 2 3 4 5 (some ⟨3, 2, 1, false, false, false, false, 0⟩), 2) ∧
    decode .vx [0x03410828, 0x0FE00002] = .ok (.vcmp 0 0 2 4 5 ⟨0, 0, 0, false, false, false, false, 2⟩, 2) := by
  refine ⟨?_, ?_, ?_, ?_, ?_, ?_, ?_, ?_, ?_, ?_, ?_, ?_, ?_, ?_, ?_, ?_⟩ <;> rfl

theorem decodes_vxInteger :
    decode .vx [0x44092449] = .ok (.viadd 4 1 18 18 9 none, 1) ∧
    decode .vx [0x9429AE60] = .ok (.visub 9 0 19 23 12 none, 1) ∧
    decode .vx [0xD44A0A79] = .ok (.vimul 13 1 20 5 15 none, 1) ∧
    decode .vx [0x246A9490] = .ok (.vimac 2 0 21 10 18 none, 1) ∧
    decode .vx [0x748B1EA8] = .ok (.vand 7 0 22 15 21 none, 1) ∧
    decode .vx [0xC4ABA8C0] = .ok (.vor 12 0 23 20 24 none, 1) ∧
    decode .vx [0x14C08420] = .ok (.vxor 1 0 1 2 4 none, 1) ∧
    decode .vx [0x54E10E00] = .ok (.vnot 5 0 2 7 none, 1) ∧
    decode .vx [0xA5019850] = .ok (.vshl 10 0 3 12 10 none, 1) ∧
    decode .vx [0xF5222268] = .ok (.vshr 15 0 4 17 13 none, 1) ∧
    decode .vx [0x4542AC80] = .ok (.vsra 4 0 5 22 16 none, 1) ∧
    decode .vx [0x8563089A] = .ok (.vimax 8 2 6 4 19 none, 1) ∧
    decode .vx [0xD58392B0] = .ok (.vimin 13 0 7 9 22 none, 1) ∧
    decode .vx [0x05A08C39, 0x0FE00005] = .ok (.vicmp 0 1 1 6 7 ⟨0, 0, 0, false, false, false, false, 5⟩, 2) := by
  refine ⟨?_, ?_, ?_, ?_, ?_, ?_, ?_, ?_, ?_, ?_, ?_, ?_, ?_, ?_⟩ <;> rfl

theorem decodes_vxOther :
    decode .vx [0x06458C00] = .ok (.vrsum 0 0 11 6 none, 1) ∧
    decode .vx [0x56661600] = .ok (.vcsum 5 0 12 11 none, 1) ∧
    decode .vx [0xA686A000] = .ok (.vrmax 10 0 13 16 none, 1) ∧
    decode .vx [0xF6A72A00] = .ok (.vcmax 15 0 14 21 none, 1) ∧
    decode .vx [0x36C78600] = .ok (.vexp2 3 0 15 3 none, 1) ∧
    decode .vx [0x86E81000] = .ok (.vlog2 8 0 16 8 none, 1) ∧
    decode .vx [0xD7089A00] = .ok (.vrcp 13 0 17 13 none, 1) ∧
    decode .vx [0x27292400] = .ok (.vrsqrt 2 0 18 18 none, 1) ∧
    decode .vx [0x7749AE00] = .ok (.vexp 7 0 19 23 none, 1) ∧
    decode .vx [0xB76A0A00] = .ok (.vlog 11 0 20 5 none, 1) ∧
    decode .vx [0x078A9400] = .ok (.vtanh 0 0 21 10 none, 1) ∧
    decode .vx [0x57AB1E00] = .ok (.vsigm 5 0 22 15 none, 1) ∧
    decode .vx [0xA80BA8C0] = .ok (.vperm 10 0 23 20 24 none, 1) ∧
    decode .vx [0xF8208400] = .ok (.vtrans 15 0 1 2 none, 1) ∧
    decode .vx [0x38410E00] = .ok (.vpack 3 0 2 7 none, 1) ∧
    decode .vx [0x20CA0000] = .ok (.vshape 2 10, 1) ∧
    decode .vx [0x060A0210, 0x0FEA0003] = .ok (.vcvt 0 0 20 1 2 ⟨20, 0, 0, false, false, false, false, 3⟩, 2) ∧
    decode .vx [0x06210000, 0x0FE38003] = .ok (.vcvtef 0 0 2 0 0 ⟨7, 0, 0, false, false, false, false, 3⟩, 2) ∧
    decode .vx [0x08650418, 0x0FEB8002] = .ok (.vbmm 0 0 10 2 3 ⟨23, 0, 0, false, false, false, false, 2⟩, 2) ∧
    decode .vx [0x08824490, 0x0FF45678] = .ok (.vkac 0 9 0x12345678, 2) := by
  refine ⟨?_, ?_, ?_, ?_, ?_, ?_, ?_, ?_, ?_, ?_, ?_, ?_, ?_, ?_, ?_, ?_, ?_, ?_, ?_, ?_⟩ <;> rfl

theorem decodes_mx :
    decode .mx [0x621A4421] = .ok (.mwld 6 true 5 1 1057, 1) ∧
    decode .mx [0xB2310801] = .ok (.mfwd 11 true 0 true 0 1 false 1, 1) ∧
    decode .mx [0x02510400] = .ok (.mbwd 0 true 0 true 0 true 0, 1) ∧
    decode .mx [0x52601800] = .ok (.msclAct 5 3, 1) ∧
    decode .mx [0xA2603801] = .ok (.msclWt0 10 7, 1) ∧
    decode .mx [0xE2602802] = .ok (.msclWt1 14 5, 1) ∧
    decode .mx [0x32601803] = .ok (.msclAll 3 3, 1) ∧
    decode .mx [0x82900840] = .ok (.msparse 8 true 1 64, 1) ∧
    decode .mx [0xD2B00000] = .ok (.mclr 13 true, 1) ∧
    decode .mx [0x12D00811] = .ok (.mdrain 1 true 1 true 1, 1) ∧
    decode .mx [0x62E13800] = .ok (.mkfwd 6 0 true false 7 false 0, 1) ∧
    decode .mx [0xB30A2B00] = .ok (.mkbwd 11 5 false 5 false 3, 1) ∧
    decode .mx [0x03200039] = .ok (.mcfg 0 true 3 1, 1) ∧
    decode .mx [0x02084000] = .ok (.mwld 0 false 4 1 0, 1) ∧
    decode .mx [0x0220D005] = .ok (.mfwd 0 false 0 false 3 2 false 5, 1) ∧
    decode .mx [0x02602803] = .ok (.msclAll 0 5, 1) ∧
    decode .mx [0x0320002B] = .ok (.mcfg 0 true 1 3, 1) := by
  refine ⟨?_, ?_, ?_, ?_, ?_, ?_, ?_, ?_, ?_, ?_, ?_, ?_, ?_, ?_, ?_, ?_, ?_⟩ <;> rfl

theorem decodes_axAddress :
    decode .ax [0x52173A40] = .ok (.aadd 5 23 7 9, 1) ∧
    decode .ax [0x921DD048] = .ok (.asub 9 29 26 1, 1) ∧
    decode .ax [0xE2015750] = .ok (.aand 14 1 10 29, 1) ∧
    decode .ax [0x3207ED58] = .ok (.aor 3 7 29 21, 1) ∧
    decode .ax [0x820D6B60] = .ok (.axor 8 13 13 13, 1) ∧
    decode .ax [0xD2110268] = .ok (.ashl 13 17 0 9, 1) ∧
    decode .ax [0x12178070] = .ok (.ashr 1 23 16 1, 1) ∧
    decode .ax [0x621D1E78] = .ok (.asra 6 29 3 25, 1) ∧
    decode .ax [0xB2219CAA] = .ok (.aaddi 11 1 19 1194, 1) ∧
    decode .ax [0x02473102] = .ok (.aandi 0 7 6 258, 1) ∧
    decode .ax [0x426BB017] = .ok (.ashli 4 11 22 23, 1) ∧
    decode .ax [0x92914817] = .ok (.ashri 9 17 9 23, 1) ∧
    decode .ax [0x32D618DD] = .ok (.nli 3 11 6365, 1) ∧
    decode .ax [0x82E386E2] = .ok (.naddi 8 1 12 1762, 1) ∧
    decode .ax [0xC3077800] = .ok (.nmov 12 7 15, 1) ∧
    decode .ax [0x132B7800] = .ok (.amov 1 11 15, 1) ∧
    decode .ax [0x635193FE] = .ok (.aswz 6 17 18 1022, 1) ∧
    decode .ax [0x023087C0] = .ok (.aaddi 0 16 16 (-64), 1) ∧
    decode .ax [0x02B0D000, 0x0FE00041] = .ok (.aliL 0 16 0x41D000, 2) := by
  refine ⟨?_, ?_, ?_, ?_, ?_, ?_, ?_, ?_, ?_, ?_, ?_, ?_, ?_, ?_, ?_, ?_, ?_, ?_, ?_⟩ <;> rfl

theorem decodes_axCopy :
    decode .ax [0xB4171088] = .ok (.cpHbmSp 11 23 2 1 2, 1) ∧
    decode .ax [0x043BAEF8] = .ok (.cpHbmLoft 0 27 21 13 30, 1) ∧
    decode .ax [0x44412A80] = .ok (.cpSpLoft 4 1 5 5, 1) ∧
    decode .ax [0x9465C680] = .ok (.cpSpSp 9 5 24 13, 1) ∧
    decode .ax [0xE48B44DC] = .ok (.cpPeerSp 14 11 8 9 23, 1) ∧
    decode .ax [0x34B1D880] = .ok (.cpLoftSp 3 17 27 1, 1) ∧
    decode .ax [0x74D55C81] = .ok (.xldHost 7 21 11 9 true, 1) ∧
    decode .ax [0xC4FBF281] = .ok (.xstHost 12 27 30 5 true, 1) ∧
    decode .ax [0x15017680] = .ok (.xldPool 1 1 14 13 false, 1) ∧
    decode .ax [0x65250A80] = .ok (.xstPool 6 5 1 5 false, 1) ∧
    decode .ax [0xB60E224B] = .ok (.qfdSp 11 3 17 1 4 true 3, 1) ∧
    decode .ax [0xF624920B] = .ok (.qfdHbm 15 1 4 9 0 true 3, 1) ∧
    decode .ax [0x4656821B] = .ok (.qfdPeer 4 5 20 1 1 true 3, 1) ∧
    decode .ax [0x9664840A] = .ok (.odrSp 9 1 4 2 true 2, 1) ∧
    decode .ax [0x06086248] = .ok (.qfdSp 0 2 3 1 4 true 0, 1) := by
  refine ⟨?_, ?_, ?_, ?_, ?_, ?_, ?_, ?_, ?_, ?_, ?_, ?_, ?_, ?_, ?_⟩ <;> rfl

theorem decodes_patches :
    decode .ax [0xE80105C0] = .ok (.papplyAdd 14 1 23, 1) ∧
    decode .ax [0x28050281] = .ok (.papplySet 2 5 10, 1) ∧
    decode .ax [0x780B0682] = .ok (.papplyAddw 7 11 26, 1) ∧
    decode .ax [0xC82F0340] = .ok (.pinv 12 15 13, 1) ∧
    decode .ax [0x18550740] = .ok (.pdrop 1 21 29, 1) ∧
    decode .ax [0x687B0400] = .ok (.pcomm 6 27 16, 1) ∧
    decode .ax [0xA89F0340] = .ok (.ptrans 10 31 0 13, 1) ∧
    decode .ax [0xF8859A41] = .ok (.ptransA 15 5 19 9, 1) ∧
    decode .ax [0x48AB00C0] = .ok (.psquash 4 11 3, 1) ∧
    decode .ax [0x98AF0581] = .ok (.psquashX 9 15 22, 1) ∧
    decode .ax [0xE8D50180] = .ok (.pinfo 14 21 6, 1) ∧
    decode .ax [0x28FB0640] = .ok (.plog 2 27 25, 1) ∧
    decode .ax [0x78FF0241] = .ok (.plogR 7 31 9, 1) := by
  refine ⟨?_, ?_, ?_, ?_, ?_, ?_, ?_, ?_, ?_, ?_, ?_, ?_, ?_⟩ <;> rfl

theorem decodes_sketches :
    decode .ax [0xCA050700] = .ok (.skinit 12 5 28, 1) ∧
    decode .ax [0x1A290300] = .ok (.skupd 1 9 12, 1) ∧
    decode .ax [0x5A450180] = .ok (.skqry 5 5 6, 1) ∧
    decode .ax [0xAA757B40] = .ok (.skadd 10 21 15 13, 1) ∧
    decode .ax [0xFA790081] = .ok (.skaddP 15 25 2, 1) ∧
    decode .ax [0x4A9F0480] = .ok (.skscl 4 31 18, 1) ∧
    decode .ax [0x9AA52E40] = .ok (.skopt 9 5 5 25, 1) ∧
    decode .ax [0xDAC90540] = .ok (.skcpyOut 13 9 21, 1) ∧
    decode .ax [0x2ACF0201] = .ok (.skcpyIn 2 15 8, 1) ∧
    decode .ax [0x7AD5C142] = .ok (.skcpyS 7 21 24 5, 1) := by
  refine ⟨?_, ?_, ?_, ?_, ?_, ?_, ?_, ?_, ?_, ?_⟩ <;> rfl

theorem decodes_fabric :
    decode .ax [0xCC072BD6] = .ok (.send 12 57 11 13 6, 1) ∧
    decode .ax [0x1C2FE0B9] = .ok (.recv 1 127 11 9, 1) ∧
    decode .ax [0x5C406E10] = .ok (.collSumF32 5 3 14 1, 1) ∧
    decode .ax [0xAC493E91] = .ok (.collSumC32 10 73 30 9, 1) ∧
    decode .ax [0xFC51F152] = .ok (.collMaxF32 15 143 17 5, 1) := by
  refine ⟨?_, ?_, ?_, ?_, ?_⟩ <;> rfl

/-! ## Ill-formed terms, one for each check (R38–R49, R187, R212) -/

theorem illFormed_sq :
    (Instr.join 0 0).wellFormed = false ∧ (Instr.brb 0 1 0).wellFormed = false ∧ (Instr.loop 0 0 0 0xFFF).wellFormed = false ∧
    (Instr.loop 0 32 0 0xFFF).wellFormed = false ∧ (Instr.loop 0 1 0 4).wellFormed = false ∧ (Instr.jmp 0).wellFormed = false ∧
    (Instr.call 0).wellFormed = false ∧ (Instr.shli 0 1 1 64).wellFormed = false ∧ (Instr.csrr 0 1 0x40).wellFormed = false ∧
    (Instr.csrw 0 1 0).wellFormed = false ∧ (Instr.kopen 0 1 0 4).wellFormed = false ∧
    (Instr.kopen 0 1 1 0).wellFormed = false ∧ (Instr.kclose 0 0).wellFormed = false ∧
    (Instr.lstat 0 1 0x12).wellFormed = false ∧ (Instr.xfence 0 0 1 0).wellFormed = false ∧
    (Instr.xfence 0 1 5 0).wellFormed = false ∧ (Instr.fuserd 0 1 1024).wellFormed = false ∧
    (Instr.measure 0 1 16).wellFormed = false := by decide

theorem illFormed_vx :
    (Instr.vadd 0 5 1 2 3 none).wellFormed = false ∧ (Instr.vadd 0 0 48 2 3 none).wellFormed = false ∧
    (Instr.vadd 0 0 1 56 3 none).wellFormed = false ∧ (Instr.vadd 0 0 1 2 56 none).wellFormed = false ∧
    (Instr.vadd 0 0 1 2 3 (some ⟨2, 0, 0, false, false, false, false, 0⟩)).wellFormed = false ∧
    (Instr.vadd 0 0 1 2 3 (some ⟨0, 0, 0, false, false, true, false, 0⟩)).wellFormed = false ∧
    (Instr.vadd 0 0 1 2 3 (some ⟨0, 0, 0, false, false, false, false, 1⟩)).wellFormed = false ∧
    (Instr.vfma 0 0 56 2 3 none).wellFormed = false ∧
    (Instr.vabs 0 0 1 2 (some ⟨0, 0, 0, false, true, false, false, 0⟩)).wellFormed = false ∧
    (Instr.viadd 0 1 1 2 3 (some ⟨0, 0, 1, false, false, false, false, 0⟩)).wellFormed = false ∧
    (Instr.viadd 0 1 1 2 3 (some ⟨0, 0, 0, false, false, false, true, 0⟩)).wellFormed = false ∧
    (Instr.vcmp 0 0 1 2 3 ⟨0, 0, 0, false, false, false, false, 6⟩).wellFormed = false ∧
    (Instr.vicmp 0 1 1 2 3 ⟨1, 0, 0, false, false, false, false, 0⟩).wellFormed = false ∧
    (Instr.vsel 0 3 1 2 3 (some ⟨0, 0, 0, false, false, false, false, 0x20⟩)).wellFormed = false ∧
    (Instr.vcvt 0 5 1 2 0 ⟨0, 0, 0, false, false, false, false, 3⟩).wellFormed = false ∧
    (Instr.vcvt 0 0 1 2 0x08 ⟨0, 0, 0, false, false, false, false, 3⟩).wellFormed = false ∧
    (Instr.vcvtef 0 0 2 0 0 ⟨2, 0, 0, false, false, false, false, 3⟩).wellFormed = false ∧
    (Instr.vcvtef 0 0 2 0 0 ⟨9, 0, 0, false, false, false, false, 3⟩).wellFormed = true ∧
    (Instr.vcvtef 0 0 2 0 0 ⟨8, 0, 0, false, false, false, false, 3⟩).wellFormed = false ∧
    (Instr.vperm 0 0 1 2 48 none).wellFormed = false ∧
    (Instr.vbmm 0 0 1 2 3 ⟨4, 0, 0, false, false, false, false, 5⟩).wellFormed = false ∧
    (Instr.vkac 0 56 7).wellFormed = false ∧ (Instr.vshape 0 13).wellFormed = false := by decide

theorem illFormed_mx_ax :
    (Instr.mwld 0 false 1 0 0).wellFormed = false ∧ (Instr.mfwd 0 false 6 false 0 0 false 0).wellFormed = false ∧
    (Instr.mfwd 0 true 0 false 2 0 false 0).wellFormed = false ∧ (Instr.mfwd 0 false 0 false 2 0 true 0).wellFormed = false ∧
    (Instr.mfwd 0 false 0 false 0 0 false 4).wellFormed = false ∧ (Instr.mbwd 0 false 4 false 0 false 8).wellFormed = false ∧
    (Instr.msparse 0 false 0 129).wellFormed = false ∧ (Instr.mkfwd 0 6 false false 0 false 0).wellFormed = false ∧
    (Instr.mkbwd 0 6 false 0 false 0).wellFormed = false ∧ (Instr.mcfg 0 false 0 5).wellFormed = false ∧
    (Instr.ashli 0 1 1 64).wellFormed = false ∧ (Instr.xldHost 0 1 2 15 false).wellFormed = false ∧
    (Instr.qfdSp 0 0 1 1 0 false 0).wellFormed = false ∧ (Instr.qfdSp 0 0 1 1 1 true 7).wellFormed = false ∧
    (Instr.qfdHbm 0 0 1 1 0 false 1).wellFormed = false ∧ (Instr.odrSp 0 0 1 1 true 7).wellFormed = false ∧
    (Instr.papplyAdd 0 1 31).wellFormed = false ∧ (Instr.ptrans 0 1 2 31).wellFormed = false ∧
    (Instr.skinit 0 1 31).wellFormed = false ∧ (Instr.skadd 0 1 2 31).wellFormed = false ∧
    (Instr.send 0 0 31 0 0).wellFormed = false ∧ (Instr.collSumF32 0 0 31 0).wellFormed = false := by decide

/-- A timed-only word has no place in a waypoint page, nor a word of another stream, nor a step without a word. -/
theorem illFormed_place :
    (Instr.loop 0 1 0 0xFFF).wellFormedIn .sqWaypoint = false ∧ (Instr.jmp 4).wellFormedIn .sqTimed = false ∧
    (Instr.vadd 0 0 1 2 3 none).wellFormedIn .mx = false ∧ Instr.droverServe.isWord = false ∧
    (Instr.add 0 1 2 3).isWord = true := by decide

/-- Words that are no instruction: a reserved opcode, a reserved value, a bit that must be zero, a tail in the place of a
head, a missing tail, and a word of the other kind of page (R36, R37, R54). -/
theorem decode_refuses :
    decode .vx [0x09E00000] = .error 1 ∧ decode .sqTimed [0x00C00000] = .error 2 ∧ decode .sqTimed [0x00200001] = .error 3 ∧
    decode .sqTimed [0x0FE00000] = .error 4 ∧ decode .sqTimed [0x00800000] = .error 5 := by
  refine ⟨?_, ?_, ?_, ?_, ?_⟩ <;> rfl

/-- A head that takes or accepts a tail ends no page and no REP body, whatever else is wrong with it (R37, R52, R54). -/
theorem scan_refuses_heads :
    scanPage .vx [0x02000000] = some (0, 0x02000000, 6) ∧ scanPage .vx [0x00800000] = some (0, 0x00800000, 5) ∧
    scanPage .vx [0x00A00000, 0x02000000, 0] = some (0, 0x00A00000, 10) ∧
    scanPage .vx [0x00A00000, 0x03440000, 0x0FE00000, 0] = some (0, 0x00A00000, 10) ∧
    scanPage .vx [0x00A01000, 0x02000000, 0x0FE00000, 0] = none := by
  refine ⟨?_, ?_, ?_, ?_, ?_⟩ <;> rfl

/-! ## States that meet the hypotheses of the claims -/

theorem witness_EncodeThenDecode : (Instr.vshape 0 12).wellFormedIn .vx = true := by decide

theorem witness_DecodeThenEncode : decode .sqTimed [0x03820000, 0x0FE02000, 7] = .ok (.addiL 0 4 0 0x400000, 2) := by rfl

/-- The word of `sub s3, s4, s5` as the next one of SQ. -/
def placed : State := State.reset.withFetchWord 32 0x02018829

theorem witness_StepRunsDecodedWord :
    placed.agenda.head? = none ∧ placed.firstDue = some (c0, .sq) ∧ Engine.sq ∈ engines ∧
    (wrapHead ((placed.coreAt c0).stream .sq).reps ((placed.coreAt c0).stream .sq).pc).1 = 0x10000 ∧ 0x10000 % 4 = 0 ∧
    placed.wordsAt 0 (placed.ctxNo c0) ((placed.coreAt c0).pageKind .sq) 0x10000 = some [0x02018829, 0] ∧
    ∀ j < 1, placed.fetchPoison c0 .sq (0x10000 + 4 * j) = none := by decide

theorem witness_StepRunsDecodedWord_decodes : decode .sqTimed [0x02018829, 0] = .ok (.sub 0 3 4 5, 1) := by rfl

/-- An effect in flight. -/
def pend (t phase : Nat) : Pend := ⟨t, phase, 0, 0, 0, 0, c0, .lastLegDeadline 1 0⟩

theorem witness_stepTakesEffectsInOrder :
    (pend 100 0).at' ≤ { sq with agenda := [pend 100 0] }.now ∧ (pend 100 0).phase < phIssue ∧
    ({ sq with agenda := [pend 101 0], cores := [] }.agenda.head? = some (pend 101 0) ∧
      { sq with agenda := [pend 101 0], cores := [] }.now < (pend 101 0).at') ∧
    { sq with agenda := [pend 101 0], cores := [] }.firstDue = none ∧
    (phIssue ≤ (pend 100 phLast).phase ∧ { sq with agenda := [pend 100 phLast], cores := [] }.firstDue = none) := by decide

/-- A word of SQ is due at an address that no page maps. -/
def astray : State :=
  set { sq with agenda := [] } (fun c => { c with sq := startStream 0x40000 64, vx := .idle, mx := .idle, ax := .idle })

theorem witness_unmappedHeadRaisesFetch :
    astray.agenda.head? = none ∧ astray.firstDue = some (c0, .sq) ∧ (astray.coreAt c0).run = some 1 ∧
    (astray.run 1).live = true ∧
    astray.wordAt 0 (astray.ctxNo c0) ((astray.coreAt c0).pageKind .sq)
      (wrapHead ((astray.coreAt c0).stream .sq).reps ((astray.coreAt c0).stream .sq).pc).1 = none := by decide

/-- SQ is due at an address of `placed`, where a word stands. -/
def dueAt (pc w : Nat) : State :=
  (placed.modDev 0 (fun x => { x with hbm := writeBytes [] 0x10000 (leBytes 4 w) })).modCore c0
    (fun c => { c with sq := { c.sq with pc := pc } })

theorem witness_tailHeadRaisesBranchTarget :
    ((dueAt 0x10000 0x0FE00000).agenda.head? = none ∧ (dueAt 0x10000 0x0FE00000).firstDue = some (c0, .sq) ∧
      ((dueAt 0x10000 0x0FE00000).coreAt c0).run = some 0 ∧ ((dueAt 0x10000 0x0FE00000).run 0).live = true ∧
      (dueAt 0x10000 0x0FE00000).wordAt 0 0 .sqTimed 0x10000 = some 0x0FE00000 ∧ isTail 0x0FE00000 = true ∧
      (dueAt 0x10000 0x0FE00000).fetchPoison c0 .sq 0x10000 = none) ∧
    ((dueAt 0x1FFFE 0).firstDue = some (c0, .sq) ∧ ((dueAt 0x1FFFE 0).wordAt 0 0 .sqTimed 0x1FFFE).isSome = true ∧
      0x1FFFE % 4 ≠ 0 ∧ (dueAt 0x1FFFE 0).fetchPoison c0 .sq 0x1FFFE = none) := by decide

theorem witness_StepKeepsMemoryCanonical : sq.memWf ∧ step sq = .next (after (step sq)) := by
  refine ⟨?_, by rfl⟩
  unfold State.memWf
  decide

/-- Reset, a count later. -/
def later : State := { State.reset with now := 1 }

theorem witness_StepKeepsEventQueuesBounded : later.queuesWithin ∧ step later = .next (after (step later)) := by
  refine ⟨fun d c => ?_, by rfl⟩
  have h : (later.ctx d c).evq = [] := by
    by_cases hc : c < 16 <;> simp [State.ctx, State.dev, later, State.reset, look, Device.reset, vget, hc, Ctx.reset]
  simp [h]

theorem witness_CountNeverFalls : step sq = .next (after (step sq)) := by rfl

theorem witness_LifecycleMovesOnlyByCommand :
    exec (.fuseCommand 0 true) sq = .next (after (exec (.fuseCommand 0 true) sq)) ∧
    ((after (exec (.fuseCommand 0 true) sq)).dev 0).life ≠ (sq.dev 0).life := ⟨by rfl, by decide⟩

/-- A core with a kraal of region 8191. -/
def inKraal : State := set sq (fun c => { c with kraal := some ⟨8191, 0, 0x2000, 90⟩ })
/-- The same at the count of its kopen. -/
def openedNow : State := set sq (fun c => { c with kraal := some ⟨8191, 0, 0x2000, 100⟩ })

theorem witness_FaultStopsStreamAndHalts :
    (Faulting sq ∧ scopeOf 0x50 = .itinerary ∧ sq.me.kraal = none) ∧ (Faulting inKraal ∧ 0x50 ≠ 0x42 ∧ 0x50 ≠ 0x43) ∧
    (Faulting openedNow ∧ scopeOf 0x42 = .itinerary ∧ openedNow.me.kraal = some ⟨8191, 0, 0x2000, 100⟩ ∧ openedNow.now ≤ 100) ∧
    (Faulting inKraal ∧ inKraal.me.kraal = some ⟨8191, 0, 0x2000, 90⟩ ∧ (90 : Nat) < inKraal.now) := by
  unfold Faulting
  decide

/-- A word that issues within the occupancy of the one before it. -/
def early (s : State) : State := { s with cur := { s.cur with bar := some 0x15 } }

/-- A timed word of SQ at a listed tick. -/
def listed : State := { sq with cur := { sq.cur with bar := some 0x09 } }

theorem witness_placeOfIssue :
    (early vx).cur.word.eng = .vx ∧ (early vx).cur.bar = some 0x15 ∧
    (listed.cur.word.eng = .sq ∧ listed.cur.bar = some 0x09 ∧ listed.sFree 1 = none ∧ listed.sFree 63 = none) ∧
    ({ sq.me with yieldDue := some 64 }.barOf sq.cur.word (.mark 0 64) false = some 0x09) ∧
    ({ sq.me with yieldDue := some 64 }.barOf sq.cur.word (.yieldW 0) false = none) ∧
    wp.me.barOf wp.cur.word (.mark 0 64) false = none := by decide

theorem witness_LowestCodeReported : (early vx).cur.early = true ∧ vx.cur.early = false := by decide

/-- The conditions of the scalar words, at the lowest and the highest registers. -/
theorem witness_SqArithmetic :
    sq.cur.early = false ∧ (∀ i ∈ [0, 1, 31, 32, 63], sq.sFree i = none) ∧ ∀ i ∈ [0, 1, 15], sq.pFree i = none := by decide

theorem witness_SqArithmetic_words :
    (Instr.shl 0 3 1 2) ∈ (aluWords 0 3 1 2).map (·.1) ∧ (Instr.remu 0 0 63 63) ∈ (longWords 0 0 63 63).map (·.1) ∧
    (Instr.oriL 0 3 1 (-1)) ∈ (immWords 0 3 1 0 (-1)).map (·.1) := by decide

/-- s1 is leased until count 110. -/
def leased : State := set sq (fun c => { c with leases := [⟨0, 1, 1, .sq, 60, 74, 110⟩] })

theorem witness_leasedOperandRaisesLeaseFault : leased.cur.early = false ∧ leased.sFree 1 ≠ none := by decide

theorem witness_leased_zero :
    let s := set sq (fun c => { c with leases := [⟨0, 0, 0, .sq, 60, 74, 110⟩] })
    s.cur.early = false ∧ s.sFree 0 ≠ none := by decide

theorem witness_balancedBranch :
    sq.cur.early = false ∧ sq.pFree 0 = none ∧ (sq.me.rp 0 = true ∧ sq.me.rp 1 = false) ∧
    firstFault (sq.transferChks .sqTimed false (sq.target 4)) = none ∧
    firstFault (sq.transferChks .sqTimed false (sq.target (-4))) = none := by decide

/-- A branch two words on from the start of the code page: its untaken arm is one idle, and both arms end at an end word. -/
def forked : State :=
  let s := sq.modDev 0 (fun x => { x with hbm := writeBytes [] 0x10008 [0, 0, 0x20, 0] })
  { s with cur := { s.cur with pc := 0x10000 } }

theorem witness_armsEndAtTheRejoin : 0x10004 ∈ forked.armWords 0x10000 0x10004 0x10008 := by decide +kernel

theorem witness_LoopCountsAndTurns :
    sq.cur.early = false ∧ sq.sFree 31 = none ∧ (∀ j < 8, sq.pFree (8 + j) = none) ∧
    (set sq (fun c => c.ws 31 1)).me.rs 31 ≠ 0 ∧ sq.me.rs 31 = 0 ∧
    firstFault ((set sq (fun c => c.ws 31 1)).transferChks .sqTimed false (sq.target (-3))) = none := by decide

/-- A waypoint word at the start of the waypoint page. -/
def wpAt (f : Core → Core) : State := let s := set wp f; { s with cur := { s.cur with pc := 0x20000 } }

theorem witness_untimedTransfers :
    (wpAt id).cur.early = false ∧ firstFault ((wpAt id).transferChks .sqWaypoint true ((wpAt id).target 1)) = none ∧
    (wpAt id).sFree 63 = none ∧
    firstFault ((wpAt (fun c => c.ws 63 0x2FFFC)).transferChks .sqWaypoint true
      ((wpAt (fun c => c.ws 63 0x2FFFC)).me.rs 63).toNat) = none := by decide

/-- A waypoint word of a core whose handler is at 0x20000. -/
def handled (inside : Bool) : State := wpAt (fun c => { c with tvec := 0x20000, tstate := inside, tepc := 0x20010 })

theorem witness_Traps :
    ((handled false).cur.early = false ∧ (handled false).cur.word.wp = true ∧ (handled false).me.tstate = false ∧
      (handled false).me.tvec ≠ 0 ∧
      firstFault ((handled false).transferChks .sqWaypoint false (handled false).me.tvec.toNat) = none) ∧
    ((handled true).me.tstate = true ∧
      firstFault ((handled true).transferChks .sqWaypoint true (handled true).me.tepc.toNat) = none) ∧
    (sq.cur.word.wp = false ∧ wp.me.tvec = 0 ∧ wp.me.tstate = false) ∧
    firstFault ((wpAt (fun c => { c with tstate := true, tepc := 0x20012 })).transferChks .sqWaypoint true 0x20012) =
      some (0x53, addrDetail .code 0x20012) := by decide

theorem witness_SharedWords :
    sq.cur.early = false ∧ sq.cur.word.eng ∈ engines ∧ sq.cur.word.issue = sq.cur.word.nominal ∧
    (sq.me.tkState.getLsbD 63 = false ∧ sq.me.tkPhase.getLsbD 63 = false) ∧ sq.tick = (64#22).toNat := by decide

/-- A timed word that issues a tick after its nominal tick. -/
def shifted : State := { sq with cur := { sq.cur with word := { sq.cur.word with nominal := 63 } } }

theorem witness_checkedWordsFault :
    sq.cur.early = false ∧ sq.me.tkState.getLsbD 0 ≠ true ∧ (sq.me.tkState.getLsbD 0 = false ∧ sq.me.tkPhase.getLsbD 0 ≠ true) ∧
    sq.tick ≠ (63#22).toNat ∧ shifted.cur.word.issue ≠ shifted.cur.word.nominal ∧ shifted.tick = (64#22).toNat := by decide

/-- The count before has left the memories as they are. -/
def settled (s : State) : State := { s with past := { s.past with devs := s.devs } }

/-- A core with a leg record: its VX stream starts at 0x1000, its waypoint at 0x2000, and tick 64 is its one yield point. -/
def leg (wp : Bool) (f : Core → Core) : State :=
  settled (set (st .sq wp Core.fresh { device false with hbm := [(0, 64), (7, 1), (41, 0x10), (49, 0x20)] }) f)

theorem witness_streamWordsComplete :
    (leg false (fun c => { c with vx := .idle })).cur.early = false ∧
    (leg false (fun c => { c with vx := .idle })).cur.word.issue = (leg false (fun c => { c with vx := .idle })).cur.word.nominal ∧
    (leg false (fun c => { c with vx := .idle })).tick + 4 ≤ (68#22).toNat ∧
    (leg false (fun c => { c with vx := .idle })).legAddr c0 (legField (strmEngine .vx)) ≠ 0 ∧
    ((leg false (fun c => { c with vx := .idle })).me.stream (strmEngine .vx)).st = .unforked ∧
    (leg false id).tick ∈ (leg false id).yieldList c0 (leg false id).me.leg ∧
    (leg false id).legAddr c0 legSqw ≠ 0 ∧ sq.legAddr c0 legSqw = 0 ∧ (leg true id).cur.word.wp = true := by decide +kernel

/-- The other streams have ended and are joined, or not, or were never forked. -/
def others (x : Stream) : State := leg false (fun c => { c with vx := x, mx := x, ax := x })
/-- A stream that ended at tick 63. -/
def ended (joined : Bool) : Stream := { running with st := .ended, endTick := 63, joined := joined }

theorem witness_streamWordsComplete_joinAndEnd :
    (∀ x ∈ [(0, Engine.vx), (1, Engine.mx), (2, Engine.ax)], (7#3).getLsbD x.1 = true →
      ((others (ended false)).me.stream x.2).st = .ended ∧ ((others (ended false)).me.stream x.2).endTick < (others (ended false)).tick ∧
      ∀ l ∈ (others (ended false)).me.leases, l.eng = x.2 → l.till ≤ (others (ended false)).now) ∧
    vx.cur.word.eng ∈ [Engine.vx, .mx, .ax] ∧ ax.cur.word.eng = .ax ∧
    ((others .idle).cur.word.eng = .sq ∧ (others .idle).cur.word.wp = false ∧ (others .idle).me.kraal = none ∧
      ∀ e ∈ [Engine.vx, .mx, .ax], ((others .idle).me.stream e).st = .unforked ∨ ((others .idle).me.stream e).joined = true) ∧
    (∀ e ∈ [Engine.vx, .mx, .ax], ((others (ended true)).me.stream e).joined = true) ∧
    (wp.cur.word.eng = .sq ∧ wp.cur.word.wp = true) := by decide

/-- The VX and AX streams have ended; MX runs. -/
def mxRuns : State := leg false (fun c => { c with vx := ended false, mx := running, ax := ended false })

theorem witness_joinMisses :
    ((7#3).getLsbD 1 = true ∧ missesJoin mxRuns .mx ∧ ∀ y ∈ joinOrder, y.1 < 1 → (7#3).getLsbD y.1 = true → ¬ missesJoin mxRuns y.2) := by
  unfold missesJoin joinOrder
  decide

theorem witness_streamWordsFault :
    (67#22).toNat < sq.tick + 4 ∧ sq.legAddr c0 (legField (strmEngine .mx)) = 0 ∧
    (sq.me.stream (strmEngine .ax)).st ≠ .unforked ∧ ((1#3).getLsbD 0 = true ∧ sq.me.vx.st ≠ .ended) ∧
    (sq.cur.word.eng = .sq ∧ sq.cur.word.wp = false ∧
      ∃ e ∈ [Engine.vx, .mx, .ax], (sq.me.stream e).st ≠ .unforked ∧ (sq.me.stream e).joined = false) ∧
    ((∀ e ∈ [Engine.vx, .mx, .ax], ((set (others .idle) (fun c => { c with kraal := some ⟨1, 0, 0, 0⟩ })).me.stream e).st = .unforked) ∧
      (set (others .idle) (fun c => { c with kraal := some ⟨1, 0, 0, 0⟩ })).cur.word.issue = 64 ∧
      (set (others .idle) (fun c => { c with kraal := some ⟨1, 0, 0, 0⟩ })).me.kraal ≠ none) ∧
    (sq.tick ∉ sq.yieldList c0 sq.me.leg ∧ sq.cur.word.issue = sq.cur.word.nominal) := by decide +kernel

theorem witness_RepsRunTheirBodies :
    ax.cur.early = false ∧ ax.cur.word.eng ∈ engines ∧ ax.me.rn 3 = 0 ∧
    (set ax (fun c => c.wn 3 1)).me.rn 3 ≠ 0 ∧ (8 = (⟨4, 8, 1⟩ : Rep).stop ∧ 0 < (⟨4, 8, 1⟩ : Rep).left) ∧
    (⟨4, 8, 0⟩ : Rep).left = 0 ∧ 4 ≠ (⟨4, 8, 0⟩ : Rep).stop := by decide

/-- A word of SQ with an address in s5. -/
def addressed (s : State) (a : Nat) : State := set s (fun c => c.ws 5 (BitVec.ofNat 64 a))

theorem witness_timedLoadsIssue :
    sq.cur.early = false ∧ sq.sFree 5 = none ∧ sq.sFree 7 = none ∧ sq.pFree 2 = none ∧
    Reachable (addressed sq (2 ^ 21 - 8)) .sp (effAddr (addressed sq (2 ^ 21 - 8)) 5 3 0) (2 ^ (3#2).toNat) ∧
    Reachable (addressed sq (2 ^ 23 - 1)) .loft (effAddr (addressed sq (2 ^ 23 - 1)) 5 0 0) (2 ^ (0#2).toNat) ∧
    Reachable (addressed sq 0x10000) .hbm (effAddr (addressed sq 0x10000) 5 2 (-1)) (2 ^ (2#2).toNat) := by
  unfold Reachable
  decide

theorem witness_scalarAccessFaults :
    windowOf .sp < effAddr (addressed sq (2 ^ 21 - 7)) 5 3 0 + 2 ^ (3#2).toNat ∧
    (effAddr (addressed sq (2 ^ 21 - 9)) 5 3 0 + 2 ^ (3#2).toNat ≤ windowOf .sp ∧
      effAddr (addressed sq (2 ^ 21 - 9)) 5 3 0 % 2 ^ (3#2).toNat ≠ 0) := by decide

theorem witness_scalarAccessFaults_pages :
    (let s := addressed sq 0x30000
     effAddr s 5 3 0 % 2 ^ (3#2).toNat = 0 ∧ effAddr s 5 3 0 + 2 ^ (3#2).toNat ≤ 2 ^ 48 ∧
      s.pagesOf s.id.dev (s.ctxNo s.id) (effAddr s 5 3 0) (2 ^ (3#2).toNat) = none) ∧
    (let s := addressed sq 0x10000
     ∃ ps, s.pagesOf s.id.dev (s.ctxNo s.id) (effAddr s 5 3 0) (2 ^ (3#2).toNat) = some ps ∧ ∃ p ∈ ps, p.exec ≠ none) := by
  refine ⟨by decide, ⟨[⟨0x10000, 0x10000, 0x10000, some 0, false, false, 0, [], 0⟩], by decide, by decide⟩⟩

theorem witness_loadPerforms :
    sq.mine sq.cur.word = true ∧ Space.hbm ∈ [Space.sp, .loft, .hbm] ∧
    sq.poisonChk sq.cur.word.id (sq.ctxW sq.cur.word) .hbm 0xFFF8 8 = none ∧
    sq.watchChk sq.cur.word .hbm 0xFFF8 8 false = none := by decide

theorem witness_TimedStoreWritesItsBytes :
    Reachable (addressed sq 0) .sp (effAddr (addressed sq 0) 5 3 0) (2 ^ (3#2).toNat) ∧
    sq.mine sq.cur.word = true ∧ sq.watchChk sq.cur.word .sp 0 8 true = none ∧ sq.memWf := by
  unfold Reachable State.memWf
  decide

theorem witness_PeerAndHostAccessIssue :
    (effAddr (addressed wp (2 ^ 56 + 0xFF8)) 5 3 0 % 2 ^ (3#2).toNat = 0 ∧
      effAddr (addressed wp (2 ^ 56 + 0xFF8)) 5 3 0 / 2 ^ 56 % 256 ≠ (addressed wp (2 ^ 56 + 0xFF8)).me.member ∧
      effAddr (addressed wp (2 ^ 56 + 0xFF8)) 5 3 0 / 2 ^ 56 % 256 < ((addressed wp 0).runOf wp.id).members.length ∧
      effAddr (addressed wp (2 ^ 56 + 0xFF8)) 5 3 0 % 2 ^ 56 + 2 ^ (3#2).toNat ≤ 2 ^ 48) ∧
    ((addressed wp 0xFF8).cur.word.wp = true ∧ effAddr (addressed wp 0xFF8) 5 3 0 % 2 ^ (3#2).toNat = 0 ∧
      effAddr (addressed wp 0xFF8) 5 3 0 + 2 ^ (3#2).toNat ≤ ((addressed wp 0xFF8).ctxOf wp.id).hostWin.toNat) := by
  decide

theorem witness_ResultsPerform :
    sq.mine sq.cur.word = true ∧ sq.mine { sq.cur.word with run := 2 } = false := by decide

theorem witness_ModesGuardWords :
    (sq.cur.early = false ∧ sq.cur.word.wp = false) ∧
    ((wp.ctxOf wp.id).control = false ∧ wp.sFree 1 = none ∧ 0x4000 ≤ (0x4000#15).toNat ∧ wp.cur.word.wp = true) := by decide

/-- A device with a verified token and a keywipe since. -/
def unlocked : State := wpc.modDev 0 (fun x => { x with tokenOk := true, wipedSince := true, life := 1 })

theorem witness_PrivilegedWordsComplete :
    (wpc.cur.early = false ∧ wpc.cur.word.wp = true ∧ (wpc.ctxOf wpc.id).control = true ∧ wpc.sFree 7 = none) ∧
    ((unlocked.dev 0).tokenOk = true ∧ (unlocked.dev 0).wipedSince = true ∧ (unlocked.dev 0).life = 1 ∧
      (unlocked.ctxOf unlocked.id).control = true) ∧
    (wpc.dev 0).tokenOk = false ∧
    ((15#15).toNat < 16 ∧ ((addressed wpc 0xFFE0).me.rs 5).toNat % 32 = 0 ∧
      ((addressed wpc 0xFFE0).me.rs 5).toNat + 32 ≤ hbmSize ∧
      (addressed wpc 0xFFE0).pageChk 0 ((addressed wpc 0xFFE0).ctxNo c0) .hbm 0xFFE0 0xFFE0 32 = none ∧
      ((addressed wpc 0xFFE0).asLeft 0).poisonChk c0 ((addressed wpc 0xFFE0).ctxNo c0) .hbm 0xFFE0 32 = none ∧
      (addressed wpc 0xFFE0).watchChk (addressed wpc 0xFFE0).cur.word .hbm 0xFFE0 32 false = none) := by decide

theorem witness_measure :
    (let s := settled (addressed wp 0xFFE0)
     s.cur.early = false ∧ s.cur.word.wp = true ∧ (s.ctxOf s.id).control = false ∧ MeasureReads s 5) ∧
    (let s := settled (addressed wpc 0xFFE0)
     (s.ctxOf s.id).control = true ∧ MeasureReads s 5 ∧
      s.watchChk s.cur.word .hbm (s.me.rs (5#6).toNat).toNat 32 false = none) := by
  unfold MeasureReads Reachable
  refine ⟨⟨by decide, by decide, by decide, by decide, ⟨by decide, by decide, fun _ => ⟨[⟨0, 0x10000, 0, none, true, false, 0, [], 0⟩], by decide, by decide⟩⟩, by decide⟩,
    ⟨by decide, ⟨by decide, ⟨by decide, by decide, fun _ => ⟨[⟨0, 0x10000, 0, none, true, false, 0, [], 0⟩], by decide, by decide⟩⟩, by decide⟩, by decide⟩⟩

/-- A handle image of a sketch with d = 3 and k = 4 at 0x4000. -/
def sketch : BitVec 256 := BitVec.ofNat 256 (0x4000 / 64 * 2 ^ 208 + 9 * 2 ^ 160 + 4 * 2 ^ 147 + 3 * 2 ^ 144 + 0x10 * 2 ^ 35)

/-- Handle 31 is bound. -/
def bound : State := set wp (fun c => { c with bound := 0x80000000 })

theorem witness_Handles :
    (sq.me.isBound 31 = false ∧ ((set sq (fun c => c.ws 1 3)).me.rs 1).toNat ≤ 3) ∧
    (bound.me.isBound 31 = true ∧ 3 < ((set sq (fun c => c.ws 1 4)).me.rs 1).toNat) ∧ wp.cur.word.wp = true := by decide

theorem witness_handlesBindAndUnbind :
    ((set wp (fun c => { c with h := vset c.h 31 sketch })).me.isBound (31#5).toNat = false ∧
      firstFault ((set wp (fun c => { c with h := vset c.h 31 sketch })).imageChks 0) = none ∧
      firstFault ((set wp (fun c => { c with h := vset c.h 31 sketch })).bindChks
        ((set wp (fun c => { c with h := vset c.h 31 sketch })).bindImage 31 0)) = none) ∧
    bound.me.isBound (31#5).toNat = true := by decide

theorem witness_Handles_again :
    (let s := set wp (fun c => { c with bound := 0x80000000, h := vset c.h 31 sketch })
     s.me.isBound (31#5).toNat = true ∧ ∀ x ∈ s.imageChks 0 ++ s.bindChks (s.bindImage 31 0), x = none) ∧
    (let s := set wp (fun c => { c with bound := 0x80000000, captures := [(31, 90), (31, 120), (31, 110), (4, 500)] })
     s.me.isBound (31#5).toNat = true ∧ s.now < 120 ∧ ((31#5).toNat, 120) ∈ s.me.captures ∧
      ∀ x ∈ s.me.captures, x.1 = (31#5).toNat → x.2 ≤ 120) ∧
    ∀ x ∈ (set bound (fun c => { c with captures := [(31, 100), (4, 500)] })).me.captures, x.1 = (31#5).toNat → x.2 ≤ bound.now := by
  decide

theorem witness_EventQueueWords :
    (wp.cur.early = false ∧ wp.cur.word.wp = true ∧ wp.sFree 7 = none ∧ wp.records = [] ∧ (wp.ctxOf wp.id).evq = []) ∧
    (wp.modCtx 0 0 (fun x => { x with evq := [5] })).records = [5] ∧
    ((wp.modCtx 0 0 (fun x => { x with evq := [5] })).ctxOf wp.id).evq ≠ [] := by decide

/-- Core 0 waits for an event. -/
def waiting : State := set wp (fun c => { c with wait := .event })

theorem witness_EventWaits :
    (wp.cur.early = false ∧ wp.cur.word.wp = true ∧ (wp.ctxOf wp.id).evq = []) ∧
    ((wp.modCtx 0 0 (fun x => { x with evq := [5] })).ctxOf wp.id).evq ≠ [] ∧
    (c0.dev = 0 ∧ waiting.ctxNo c0 = 0 ∧ (waiting.ctx 0 0).evq.length < 256 ∧ (waiting.coreAt c0).wait = .event) := by decide

theorem witness_CsrWords :
    (sq.cur.early = false ∧ sq.sFree 7 = none ∧ (0x3FFF#15).toNat < 0x4000 ∧ (17#15).toNat < 18) ∧
    (0x4000 ≤ (0x4000#15).toNat ∧ (wpc.ctxOf wpc.id).control = true ∧ wpc.sFree 7 = none) := by decide

theorem witness_CountWords : sq.cur.early = false ∧ sq.sFree 63 = none ∧ 0 < sq.tick := by decide

/-- A route of one hop from device 0 to device 1. -/
def routed : State := { sq with routes := [⟨0, 1, [(0, 17)], 256⟩] }

theorem witness_statusReads :
    ((0x3FFF#15).toNat < 0x4000 ∧ (17#15).toNat < 18 ∧ sq.sFree 63 = none) ∧
    ((0x101#15).toNat = 0x100 + 1 ∧ 1 ≠ routed.me.member ∧ (routed.runOf routed.id).members[1]? = some (1, 0) ∧
      routed.route? routed.id.dev 1 = some ⟨0, 1, [(0, 17)], 256⟩) ∧
    (0x4000 ≤ (0x7FFF#15).toNat ∧ (wpc.ctxOf wpc.id).control = true) := by decide

/-- A core that has read the flags of VX into s63 at this count, while a push of its word is due. -/
def flagged : Core :=
  { Core.fresh with s := vset Core.fresh.s 63 7, flagsVx := 7, flagRead := some (63, [(vx.cur.word, 5)]) }

theorem witness_statusReads_flags :
    vx.cur.word.eng ≠ .mx ∧ mx.cur.word.eng = .mx ∧ (⟨⟨0, .f32, false⟩, 100, vx.cur.word, 5, []⟩ : QEnt).before = [] ∧
    (63#6 ≠ 0 ∧ flagged.flagRead = some ((63#6).toNat, [(vx.cur.word, 5)])) ∧
    [(vx.cur.word, (5 : BitVec 5))].find? (fun x => x.1 == vx.cur.word) = some (vx.cur.word, 5) ∧
    [(vx.cur.word, (5 : BitVec 5))].find? (fun x => x.1 == mx.cur.word) = none ∧ Core.fresh.flagRead = none := by decide

theorem witness_sharedWrites : wp.mine wp.cur.word = true ∧ wp.ctxNo wp.id < 16 ∧ 0x4000 ≤ 0x4021 := by decide

theorem witness_controlWrites :
    (Device.reset.xen.getLsbD 0 = false ∧ { Device.reset with xen := 1 }.xen.getLsbD 0 = true) ∧
    (10 ≤ (40 : Reg).toNat ∧ (40 : Reg).toNat ≤ 40 ∧ ¬ (41 : Reg).toNat ≤ 40) ∧ 3 < 4 ∧
    (0x4040 ≠ 0x4004 ∧ 0x4040 ≠ 0x4017 ∧ 0x4040 ≠ 0x4050) ∧ c1 ≠ wp.selectedCore 0 := by decide

theorem witness_KraalWords :
    (sq.id ∈ sq.herd sq.id (0#8).toNat ∧ sq.me.kraal = none) ∧ sq.id ∉ sq.herd sq.id (255#8).toNat ∧
    (inKraal.id ∈ inKraal.herd inKraal.id (0#8).toNat ∧ inKraal.me.kraal = some ⟨8191, 0, 0x2000, 90⟩) ∧
    ((⟨8191, 0, 0x2000, 90⟩ : Kraal).region = 8191 ∧ (⟨8191, 0, 0x2000, 90⟩ : Kraal).region ≠ 1) := by decide

/-- A core with n fences pending. -/
def fenced (s : State) (n : Nat) : State := set s (fun c => { c with fences := List.replicate n ⟨0, 1, 1, 0, 90, none⟩ })

/-- The device led the group by n ticks when the last count ended, and does so now. -/
def led (n : Int) : State :=
  let s := sq.modDev 0 (fun x => { x with lead := n })
  { s with past := { s.past with devs := s.devs } }

theorem witness_FencePaceAndDebugWords :
    (sq.id ∈ ((sq.runOf sq.id).scopes[(0#5).toNat]?).getD [] ∧ (fenced sq 3).me.fences.length < 4 ∧
      4 ≤ (fenced sq 4).me.fences.length ∧ (fenced sq 4).cur.word.wp = false ∧
      4 ≤ (fenced wp 4).me.fences.length ∧ (fenced wp 4).cur.word.wp = true) ∧
    sq.id ∉ ((sq.runOf sq.id).scopes[(31#5).toNat]?).getD [] ∧
    (8 ≤ ((led 8).pastDev 0).lead ∧ (led 8).now + 1 ∉ ((led 8).dev 0).pacePulses) ∧ ((led 7).pastDev 0).lead < 8 ∧
    ((sq.ctxOf sq.id).brken.getLsbD 0 = false ∧
      ((sq.modCtx 0 0 (fun x => { x with brken := 1 })).ctxOf sq.id).brken.getLsbD 0 = true) ∧
    (sq.trigger = none ∧ sq.now + 8192 ≤ ((set sq (fun c => c.ws 1 8292)).me.rs 1).toNat) ∧
    ((set sq (fun c => c.ws 1 8291)).me.rs 1).toNat < sq.now + 8192 ∧ { sq with trigger := some 9000 }.trigger ≠ none ∧
    ((set sq (fun c => c.ws 1 63)).me.rs 1 >>> 6 = 0 ∧ (set sq (fun c => c.ws 1 64)).me.rs 1 >>> 6 ≠ 0) := by decide

/-- A word of VX whose registers t0 to t47 hold zero bytes of a format. -/
def tiles (tag : Tag) : State := set vx (fun c => { c with t := Vector.replicate 48 ⟨0, tag, false⟩ })
/-- The tail of no options. -/
def plain : VTail := tailOr 5 none

theorem witness_VxFloatWords :
    VxClear (tiles .f32) { b := true } (.tile 5) none 1 2 plain .f32
      [hasTag .f32 (vxAt (tiles .f32) { b := true } (.tile 5) none 1 2 plain).env.a,
       hasTag .f32 (vxAt (tiles .f32) { b := true } (.tile 5) none 1 2 plain).env.b] ∧
    VxClear (tiles .e5m2) { b := true, c := true } (.tile 47) none 47 47 { plain with vc := 47, m := 7 } .e5m2
      [hasTag .e5m2 (vxAt (tiles .e5m2) { b := true, c := true } (.tile 47) none 47 47 { plain with vc := 47, m := 7 }).env.c] ∧
    VxClear (tiles .bf16) {} (.queue 3) none 0 0 plain .bf16
      [hasTag .bf16 (vxAt (tiles .bf16) {} (.queue 3) none 0 0 plain).env.a] := by
  unfold VxClear
  decide

theorem witness_VxIntegersAndCompares :
    VxClear (tiles .i16) { b := true, c := true, lam := 5 } (.tile 5) none 1 2 plain .i16
      [hasTag .i16 (vxAt (tiles .i16) { b := true, c := true, lam := 5 } (.tile 5) none 1 2 plain).env.c] ∧
    VxClear (tiles .u8) { b := true, lam := 5 } (.tile 5) none 1 2 plain .u8
      [hasTag .u8 (vxAt (tiles .u8) { b := true, lam := 5 } (.tile 5) none 1 2 plain).env.b] ∧
    VxClear (tiles .i8) { lam := 5 } (.tile 5) none 1 0 plain .i8
      [hasTag .i8 (vxAt (tiles .i8) { lam := 5 } (.tile 5) none 1 0 plain).env.a] ∧
    VxClear (tiles .i32) { b := true, guarded := false, lam := 5 } (.mask 7) none 1 2 plain .i32
      [hasTag .i32 (vxAt (tiles .i32) { b := true, guarded := false, lam := 5 } (.mask 7) none 1 2 plain).env.a] ∧
    VxClear (tiles .f16) { b := true, guarded := false, lam := 5 } (.mask 0) none 1 2 plain .f16
      [hasTag .f16 (vxAt (tiles .f16) { b := true, guarded := false, lam := 5 } (.mask 0) none 1 2 plain).env.a] := by
  unfold VxClear
  decide

theorem witness_VxMovesCopyElements :
    VxClear (tiles .f32) {} (.tile 5) none 1 0 plain .f32
      [formChk 0 plain.x (vxAt (tiles .f32) {} (.tile 5) none 1 0 plain).env.a,
       shapeChk 4 (vxAt (tiles .f32) {} (.tile 5) none 1 0 plain).env] ∧
    VxClear (tiles .f16) { b := true, guarded := false } (.tile 5) none 1 2 { plain with x := 0x20 } .f16
      [formChk 1 0x20 (vxAt (tiles .f16) { b := true, guarded := false } (.tile 5) none 1 2 { plain with x := 0x20 }).env.a] ∧
    VxClear (tiles .i32) { b := true, lam := 8 } (.tile 5) none 1 2 plain .i32
      [widthChk 4 (vxAt (tiles .i32) { b := true, lam := 8 } (.tile 5) none 1 2 plain).env.a,
       hasTag .i32 (vxAt (tiles .i32) { b := true, lam := 8 } (.tile 5) none 1 2 plain).env.b] ∧
    VxClear (tiles .e4m3) { lam := 8 } (.tile 5) none 1 0 plain .e4m3
      [widthChk 1 (vxAt (tiles .e4m3) { lam := 8 } (.tile 5) none 1 0 plain).env.a,
       shapeChk 1 (vxAt (tiles .e4m3) { lam := 8 } (.tile 5) none 1 0 plain).env] ∧
    VxClear (tiles .bf16) { guarded := false, lam := 8 } (.tile 5) none 1 0 plain .bf16
      [widthChk 2 (vxAt (tiles .bf16) { guarded := false, lam := 8 } (.tile 5) none 1 0 plain).env.a] := by
  unfold VxClear
  decide

/-- Registers of F32 zeros, but t23 of lengths 0. -/
def lengths : State := set (tiles .f32) (fun c => { c with t := vset c.t 23 ⟨0, .u8, false⟩ })

theorem witness_VxOtherWordsComplete :
    VxClear (tiles .f32) { guarded := false, lam := 10 } (.tile 5) none 1 0 plain .f32
      [hasTag .f32 (vxAt (tiles .f32) { guarded := false, lam := 10 } (.tile 5) none 1 0 plain).env.a,
       shapeChk 4 (vxAt (tiles .f32) { guarded := false, lam := 10 } (.tile 5) none 1 0 plain).env] ∧
    VxClear (tiles .f16) { lam := 24, occ := 8 } (.tile 5) none 1 0 plain .f16
      [hasTag .f16 (vxAt (tiles .f16) { lam := 24, occ := 8 } (.tile 5) none 1 0 plain).env.a] ∧
    VxClear (tiles .f32) {} (.tile 20) none 1 0 { plain with x := 3 } (cvtDst 3)
      [hasTag (cvtSrc 0 3) (vxAt (tiles .f32) {} (.tile 20) none 1 0 { plain with x := 3 }).env.a] ∧
    VxClear (tiles .f32) {} (.tile 2) (some 7) 0 0 { plain with vc := 7, x := 3 } (cvtDst 3)
      [hasTag (cvtSrc 0 3) (vxAt (tiles .f32) {} (.tile 2) (some 7) 0 0 { plain with vc := 7, x := 3 }).env.a] := by
  unfold VxClear
  decide

theorem witness_VxOtherWordsComplete_products :
    VxClear lengths { b := true, c := true, acc := true, lam := 68, occ := 64 } (.tile 5) none 1 2 { plain with vc := 23, x := 4 } .f32
      [hasTag .u8 (vxAt lengths { b := true, c := true, acc := true, lam := 68, occ := 64 } (.tile 5) none 1 2 { plain with vc := 23, x := 4 }).env.c] ∧
    (∀ i < 4096 / (4 / 2 ^ (0#3).toNat) / (16 * 16), lane 1
      (vxAt lengths { b := true, c := true, acc := true, lam := 68, occ := 64 } (.tile 5) none 1 2 { plain with vc := 23, x := 4 }).env.c i ≤ 16) ∧
    (vx.cur.early = false ∧ vx.cur.word.eng = .vx ∧ (47#6).toNat < 48 ∧ leaseOn (tiles .u8).me (tiles .u8).now 5 47 = none ∧
      (vget tileZero (tiles .u8).me.t 47).poison = false ∧ (vget tileZero (tiles .u8).me.t 47).tag ≠ .none ∧
      knownAnswer (vget tileZero (tiles .u8).me.t 47).data = 0) := by
  unfold VxClear
  decide +kernel

theorem witness_VxOtherWordsComplete_values :
    vx.me.rl.toNat ≤ 12 ∧ cvtDst 3 ≠ .none ∧
    (0 < 4096 / widthOf (cvtSrc 0 3) / (4096 / max (widthOf (cvtSrc 0 3)) (widthOf (cvtDst 3)))) ∧
    (0 < 4096 / widthOf (cvtSrc 0 3) / 1024 ∧ 0 < 4096 / widthOf (cvtDst 3) / 1024) := by decide

theorem witness_VxResultsPerform :
    vx.mine vx.cur.word = true ∧ vx.cur.word.eng = .vx ∧ 47 < 48 ∧ 7 < 8 ∧ 3 < 4 := by decide

/-! ### MX -/

/-- A word of MX with n entries of a format in q1. -/
def fed (n : Nat) (tag : Tag) : State :=
  set mx (fun c => { c with q := vset c.q 1 (List.replicate n ⟨⟨0, tag, false⟩, 100, wordOf .ax false, 0, []⟩) })

theorem witness_MxProductsIssue :
    ProductClear (fed 1 .e4m3) ⟨true, 0, false, .dense, 1, [(0, 1)], 3, none⟩ ∧
    ProductClear (fed 2 .e4m3) ⟨true, 0, true, .dense, 1, [(1, 0)], 1, none⟩ ∧
    ProductClear (fed 1 .e4m3) ⟨false, 0, false, .dense, 1, [(1, 0)], 0, some 3⟩ := by
  unfold ProductClear
  refine ⟨⟨by decide, by decide, by decide, ?_, by decide⟩, ⟨by decide, by decide, by decide, ?_, by decide⟩,
    ⟨by decide, by decide, by decide, ?_, by decide⟩⟩
  · exact ⟨⟨⟨0, .e4m3, false⟩, 100, wordOf .ax false, 0, []⟩, [], by decide +kernel, by decide, by decide, by decide,
      fun h => absurd h (by decide)⟩
  · exact ⟨⟨⟨0, .e4m3, false⟩, 100, wordOf .ax false, 0, []⟩, [⟨⟨0, .e4m3, false⟩, 100, wordOf .ax false, 0, []⟩], by decide +kernel,
      by decide, by decide, by decide, fun _ => ⟨⟨⟨0, .e4m3, false⟩, 100, wordOf .ax false, 0, []⟩, [], by decide +kernel⟩⟩
  · exact ⟨⟨⟨0, .e4m3, false⟩, 100, wordOf .ax false, 0, []⟩, [], by decide +kernel, by decide, by decide, by decide,
      fun h => absurd h (by decide)⟩

/-- MX with its resources held at count 100. -/
def held : State := set mx (fun c => { c with arrayFree := 101, loftFree := 101 })

theorem witness_mxLoadsAndClearsIssue :
    (mx.cur.early = false ∧ leaseOn mx.me mx.now 8 1 = none ∧ leaseOn mx.me mx.now 9 1 = none ∧
      (5#3).toNat ∈ [0, 2, 4, 5] ∧ mx.me.loftFree ≤ mx.now ∧ 32 * (2039#11).toNat + 16 * 18 ≤ 65536 ∧ mx.me.arrayFree ≤ mx.now) ∧
    65536 < 32 * (2040#11).toNat + 16 * 18 ∧ (held.now < held.me.loftFree ∧ held.now < held.me.arrayFree) := by decide

theorem witness_mxControlWords :
    (mx.cur.early = false ∧ mx.me.controlFree ≤ mx.now ∧ vget [] mx.me.q 7 = []) ∧
    (vget [] (fed 1 .f32).me.q 1 = [⟨⟨0, .f32, false⟩, 100, wordOf .ax false, 0, []⟩] ∧
      vget [] (fed 1 .u8).me.q 1 = [⟨⟨0, .u8, false⟩, 100, wordOf .ax false, 0, []⟩] ∧
      ((List.range 128).filter (fun i => (0#32768).getLsbD i)).length = (0#8).toNat ∧
      ((List.range 128).filter (fun i => (0#32768).getLsbD i)).length ≠ (1#8).toNat ∧
      leaseOn mx.me mx.now 8 1 = none ∧ leaseOn mx.me mx.now 9 1 = none ∧ 100 ≤ mx.now) ∧
    (∀ tag ∈ [Tag.f32, .u8], vget [] (set mx (fun c => { c with q := vset c.q 1 [⟨⟨0, tag, true⟩, 100, wordOf .ax false, 0, []⟩] })).me.q 1 =
      [⟨⟨0, tag, true⟩, 100, wordOf .ax false, 0, []⟩]) := by decide +kernel

theorem witness_MxDrain :
    (mx.cur.early = false ∧ mx.me.controlFree ≤ mx.now ∧ mx.me.mcfg.toNat % 8 < 5) ∧
    ((15#4).toNat * (4096 / (128 * widthOf .f32)) < 128 ∧ 128 ≤ (15#4).toNat * (4096 / (128 * widthOf .e4m3))) ∧
    (∀ i < 8, leaseOn mx.me mx.now 7 (128 + 120 + i) = none) ∧
    (convertElem .f32 .f32 .rne false 0).nan = false ∧ (convertElem .f32 .f32 .rne false 0x7FC00000).nan = true := by
  decide

/-- A buffer of column-bitmap mode whose column 0 is live, or none, with weight scale NaN. -/
def bitmapped (live : BitVec 128) : WBuf := { weightsFresh with mode := .cb, bitmap := live, wsc := 0x7FC00000 }
/-- A product of two rows from some of the buffers. -/
def product (live : BitVec 128) (accs : List Nat) (known : Option Nat) (rows : Nat) : Product :=
  ⟨true, 0, .cb, accs.map (fun a => (bitmapped live, a)), known, List.replicate rows [], 126, 0⟩

theorem witness_MxResultsPerform : mx.mine mx.cur.word = true ∧ mx.cur.word.eng = .mx ∧ 1 < 2 ∧ 124 + 4 ≤ 128 := by decide

theorem witness_productsPerform :
    ∀ accs ∈ [[0], [1], [0, 1], [1, 0]], ∀ known ∈ [none, some 3],
      (∀ x ∈ (product 0 accs known 2).srcs, x.2 < 2) ∧ ((product 0 accs known 2).srcs.map (·.2)).Nodup ∧
      (product 0 accs known 2).row0 + (product 0 accs known 2).vecs.length ≤ 128 ∧
      ∀ x ∈ (product 0 accs known 2).srcs, ∀ i < (product 0 accs known 2).vecs.length,
        (rowOf (mx.coreAt c0) (product 0 accs known 2) x i).2.2 = [] := by decide +kernel

theorem witness_productsPerform_nan :
    (rowOf (mx.coreAt c0) (product 1 [1] none 1) (bitmapped 1, 1) 0).2.2 = [(0, 126, 0)] ∧
    (bitmapped 1, 1) ∈ (product 1 [1] none 1).srcs ∧ 0 < (product 1 [1] none 1).vecs.length := by decide +kernel

/-! ### AX -/

/-- A word of AX with a1, a2, a6 and n3, n4 set. -/
def operands (d a n : Nat) (dd : Nat := 0) : State :=
  set ax (fun c => ((((c.wa 1 (BitVec.ofNat 64 d)).wa 2 (BitVec.ofNat 64 a)).wn 3 (BitVec.ofNat 32 n)).wn 4 (BitVec.ofNat 32 dd)).modArb false)

theorem witness_AxAddressWords : ax.cur.early = false := by decide

/-- Handle 4 is bound to a tensor of 1,024 F32 elements. -/
def tensor (s : State) : State :=
  set s (fun c => { c with bound := 0x10, h := vset c.h 4 (BitVec.ofNat 256 (1024 * 2 ^ 160 + 2 ^ 128 + 2 ^ 96 + 2 ^ 64 + 2 ^ 35)) })

theorem witness_CopiesIssue :
    (Holds (operands 0 (2 ^ 21 - 64) 64) .sp 4 (2 ^ 21 - 64) 64 ∧ Holds (operands 0 0 64) .loft 0 (2 ^ 23 - 64) 64 ∧
      Holds (tensor (operands 0 4032 64)) .hbm 4 4032 64) ∧
    ((operands 0 0 64).me.rn 3 ≠ 0 ∧ (operands 0 0 0).me.rn 3 = 0 ∧ ((operands 0 0 65).me.rn 3).toNat % 64 ≠ 0) ∧
    (portSR, 106) ∉ ax.me.ports := by
  unfold Holds
  decide

theorem witness_peerReadsIssue :
    HoldsPeer (tensor (operands 0 (2 ^ 56) 64)) 4 (2 ^ 56) 4096 ∧
    HoldsPeer (tensor (operands 0 (2 ^ 56 + 4032) 64)) 4 (2 ^ 56 + 4032) 64 ∧ (operands 0 0 0).me.rn 3 = 0 := by
  unfold HoldsPeer
  decide

theorem witness_FeedsAndDrainsIssue :
    (ax.cur.early = false ∧ tagOf 1 = some .f32 ∧ (operands 0 0 0).me.rn 3 = 0) ∧
    ((operands 0 (2 ^ 21 - 4096) 1).me.rn 3 ≠ 0 ∧ ((operands 0 (2 ^ 21 - 4096) 1).me.ra 2).toNat + 4096 ≤ 2 ^ 21) ∧
    (FillsLines true 0 (widthOf .f32) ∧ ¬ FillsLines true 7 (widthOf .f32) ∧ FillsLines false 7 0) ∧
    Holds (tensor (operands 0 0 1)) .hbm 4 0 4096 ∧ vget [] ax.me.o 3 = [] ∧
    vget [] (set ax (fun c => { c with o := vset c.o 3 [⟨⟨0, .f32, false⟩, 100, wordOf .vx false, 0, []⟩] })).me.o 3 =
      [⟨⟨0, .f32, false⟩, 100, wordOf .vx false, 0, []⟩] := by
  unfold Holds FillsLines
  decide +kernel

/-- A feed of one column-order entry of F32 from SP into queue 3. -/
def feeding : FeedJob := ⟨3, .sp, 0x1000, 1, .f32, some 256, 1024, 1, 3, 0, none, 0⟩

theorem witness_entriesAreFormed :
    (ax.mine ax.cur.word = true ∧ feeding.target = none ∧ feeding.beat = 1024 ∧ feeding.q < 8 ∧
      ax.poisonChk ax.cur.word.id (ax.ctxW ax.cur.word) feeding.src (feeding.addr + 4096 * 0 + 3072) 1024 = none ∧
      ax.watchChk ax.cur.word feeding.src (feeding.addr + 4096 * 0 + 3072) 1024 false = none) ∧
    ∀ w ∈ [1, 2, 4], FillsLines true 0 w := by
  unfold FillsLines
  decide

theorem witness_DispatchesIssue :
    (let s := operands 0 0xFC0 64 4096
     (s.me.rn 3).toNat = 64 ∧ (s.me.rn 4).toNat = 4096 ∧ 0 + 64 ≤ 2 ^ 21 ∧ 0xFC0 + 64 ≤ (s.ctxOf s.id).hostWin.toNat ∧
      s.me.outstanding true + 64 ≤ 65536 ∧ (s.ctxOf s.id).dlHost.toNat + 16 ≤ 4096 ∧ s.tick + 4096 + 1 ≤ 2 ^ 22 ∧
      ∀ j < 1, (portSW, s.now + 4096 + j) ∉ s.me.ports) ∧
    ((operands 0 0 0).me.rn 3 = 0 ∧ 65536 < ((operands 0 0 65600).me.rn 3).toNat) ∧
    (let s := set (operands 0 0xFC0 64 4096) (fun c => { c with ports := [(portSW, 4196), (portSR, 106)] })
     (∃ j < 1, (portSW, s.now + 4096 + j) ∈ s.me.ports) ∧ ∃ j < 1, (portSR, s.now + 6 + j) ∈ s.me.ports) := by decide

/-- A dispatch that is outstanding. -/
def sent (done failed : Bool) : Dispatch :=
  ⟨3, wordOf .ax false, true, false, 0, 0, 64, false, 100, 90, List.replicate 64 0, [], [], done, failed, false⟩
def outstanding (done failed : Bool) : State := set ax (fun c => { c with dispatches := [sent done failed] })

/-- An earlier store of the bytes that dispatch 3 loads has not performed. -/
def overlapped : State :=
  set ax (fun c => { c with dispatches := [{ sent false false with number := 2, load := false, issued := 80 }, sent false false] })
/-- The same, but that an itinerary of the same context, which has retired, has left the store on its way. -/
def overtaken : State :=
  let e : Dispatch := { sent false false with number := 2, load := false, issued := 80, ended := true }
  { outstanding false false with runs := (1, run1) :: [(0, { run1 with st := .retired, savedCores := [(c0, { Core.fresh with dispatches := [e] })] })] }

/-- Core 0 waits for a scalar access to HOST. -/
def hostWait (dst : Option LoadDst) : State := set wp (fun c => { c with wait := .host (wordOf .sq true) 8 8 dst 5 95 })

theorem witness_completionsPerform :
    (let s := outstanding false false
     let d := sent false false
     (s.run 1).away = false ∧ (s.coreAt c0).run = some 1 ∧ (s.coreAt c0).dispatch? 3 = some d ∧
      d.done = false ∧ d.ended = false ∧
      d.n % 64 = 0 ∧ s.memWf ∧ s.dispatchWaits 1 c0 d = false ∧ s.watchOf (s.coreAt c0) d.word .host d.src d.n false = none ∧
      d.data.length = d.n ∧ d.chunks = [] ∧ 64 * 0 < d.n ∧ 0 ∉ d.chunks) ∧
    ((overlapped.coreAt c0).dispatch? 3 = some (sent false false) ∧ overlapped.dispatchWaits 1 c0 (sent false false) = true ∧ overtaken.dispatchWaits 1 c0 (sent false false) = true ∧
      (overtaken.coreAt c0).dispatch? 3 = some (sent false false) ∧
      (overlapped.coreAt c0).dispatch? 2 = some { sent false false with number := 2, load := false, issued := 80 } ∧
      overlapped.dispatchWaits 1 c0 { sent false false with number := 2, load := false, issued := 80 } = false) ∧
    ((hostWait none).run 1).away = false ∧ ((hostWait none).coreAt c0).run = some 1 ∧
      (hostWait none).strayWaits 1 c0 95 8 8 = false ∧
      ((hostWait none).coreAt c0).wait = .host (wordOf .sq true) 8 8 none 5 95 ∧
      ((hostWait none).coreAt c0).holds true false 95 = false ∧
      (hostWait none).watchOf ((hostWait none).coreAt c0) (wordOf .sq true) .host 8 8 true = none ∧
      (hostWait (some (.sReg 5))).watchOf ((hostWait (some (.sReg 5))).coreAt c0) (wordOf .sq true) .host 8 8 false = none := by
  unfold State.memWf
  decide

/-- A dispatch of a store that has ended on its core, on its way still. -/
def departed : Dispatch := { sent false false with load := false, ended := true }

/-- An unwind has left two stores to HOST on their way, the later one to other bytes. -/
def straying : State := set wp (fun c => { c with strays := [⟨95, 8, 8, false, 5⟩, ⟨97, 16, 8, false, 6⟩] })

theorem witness_straysPerform :
    (let s := set ax (fun c => { c with dispatches := [departed] })
     (s.coreAt c0).dispatch? 3 = some departed ∧ departed.done = false ∧ departed.n % 64 = 0 ∧ departed.n ≤ departed.data.length ∧
      s.dispatchWaits 1 c0 departed = false ∧ departed.load = false ∧ departed.chunks = []) ∧
    (straying.run 1).away = false ∧ (straying.coreAt c0).run = some 1 ∧
    (straying.coreAt c0).wait = .none ∧ (straying.coreAt c0).strays.find? (fun y => y.issued == 97) = some ⟨97, 16, 8, false, 6⟩ ∧
    straying.strayWaits 1 c0 97 16 8 = false ∧ straying.memWf := by
  unfold State.memWf
  decide

theorem witness_TransfersPerform :
    (ax.mine ax.cur.word = true ∧ 256 * 3 < 1024 ∧ ax.watchChk ax.cur.word .sp 0 256 false = none) ∧
    (((fed 8 .f32).coreAt c0).queue false 1).length ≤ 8 ∧ 8 < (((fed 9 .f32).coreAt c0).queue false 1).length ∧
    (((outstanding false false).coreAt c0).dispatch? 3 = some (sent false false) ∧
      ((outstanding true true).coreAt c0).dispatch? 3 = some (sent true true) ∧
      ((outstanding true false).coreAt c0).dispatch? 3 = some (sent true false) ∧ 0 < (sent true false).n) ∧
    (((outstanding false false).run 1).live = true ∧ ((outstanding false false).run 1).away = false ∧
      ((outstanding false false).coreAt c0).holds false false 90 = false ∧
      (let d := sent false false
       (outstanding false false).watchOf ((outstanding false false).coreAt c0) d.word (if d.pool then .pool else .host)
        (if d.load then d.src else d.dst) d.n (!d.load) = none)) := by decide

/-! ### Commands, fabric -/

/-- A word of AX that names handles 4 and 5, with its descriptor at 0x1000 and a sizing word. -/
def command (h : BitVec 256) (work p : Nat) : State :=
  set ax (fun c => { c with bound := 0x30, h := Vector.replicate 32 h, a := vset (vset c.a 6 0x1000) 7 (BitVec.ofNat 64 (work * 2 ^ 32 + p)) })

theorem witness_NmuCommandsIssue :
    (let s := command 0 1048576 64
     s.cur.early = false ∧ (s.me.ra 6).toNat = 0x1000 ∧ (s.me.ra 7 >>> 32).toNat = 2 ^ 20 ∧ (s.me.ra 7).toNat % 2 ^ 32 = 64 ∧
      (s.me.isBound 4 = true ∧ hIsSketch (s.me.rh 4) = false) ∧ s.tick + 600 + 2 ^ 20 + 300 < 2 ^ 22 ∧
      (∀ j < 2, (portSR, s.now + 6 + j) ∉ s.me.ports) ∧ s.now + 600 + 2 ^ 20 ∉ s.me.pis) ∧
    2 ^ 20 < ((command 0 1048577 0).me.ra 7 >>> 32).toNat ∧ ax.me.isBound 4 = false ∧
    (let s := command sketch 5 0
     s.me.isBound 5 = true ∧ hIsSketch (s.me.rh 4) = true ∧ hIsSketch (s.me.rh 5) = true ∧
      sameShape (sketchOf (s.me.rh 4)) (sketchOf (s.me.rh 5)) = true ∧ ((s.me.ra 7) >>> 32).toNat ≤ 2 ^ 20) := by
  decide

/-- skupd of a word of AX over two indices, with some work. -/
def skupd (work : Nat) : NmuCmd :=
  ⟨.skupd, wordOf .ax false, sketch, 0, work, 0, 1, 1, 0x1000, 0, BitVec.ofNat 512 (2 ^ 32), [], [], none⟩

theorem witness_NmuCommandsPerform :
    { skupd 0 with op := .pinfo }.op = .pinfo ∧ ax.mine (skupd 0).word = true ∧
    { skupd 0 with desc := BitVec.ofNat 512 (2 ^ 416) }.work < sketchWork { skupd 0 with desc := BitVec.ofNat 512 (2 ^ 416) } := by
  decide +kernel

/-- A plain page of 1 GiB at 0, and behind it one of AX code. -/
def onePage : Page := ⟨0, 0x40000000, 0, none, true, true, 0, [], 0⟩
def codePage : Page := ⟨0x40000000, 0x10000, 0x40000000, some 2, false, false, 0, [], 0⟩

/-- A word of AX whose context has those pages, over a memory. -/
def flat (m : Memory) : State :=
  ax.modDev 0 (fun x => { x with hbm := m, ctxs := Vector.replicate 16 { Ctx.reset with pages := [onePage, codePage] } })

theorem flat_ctx (m : Memory) : ((flat m).ctx 0 0).pages = [onePage, codePage] ∧ ((flat m).ctx 0 0).brken = 0 := ⟨rfl, rfl⟩

theorem flat_page (m : Memory) (x : Nat) : (flat m).page? 0 0 x =
    if x < 0x40000000 then some onePage else if x < 0x40010000 then some codePage else none := by
  by_cases h : x < 0x40000000
  · simp [State.page?, (flat_ctx m).1, onePage, h]
  · by_cases h2 : x < 0x40010000
    · simp [State.page?, (flat_ctx m).1, onePage, codePage, h, h2]
    · simp [State.page?, (flat_ctx m).1, onePage, codePage, h, h2]

theorem flat_phys (m : Memory) (x : Nat) : (flat m).phys 0 0 x = x := by
  unfold State.phys
  rw [flat_page]
  by_cases h : x < 0x40000000
  · simp [h, onePage]
  · by_cases h2 : x < 0x40010000
    · simp [h, h2, codePage]; omega
    · simp [h, h2]

theorem flat_takes (m : Memory) (x : Nat) (h : x < 0x40000000) : (flat m).takesByte 0 0 x = true := by
  have h1 : ((flat m).dev 0).ctxs = Vector.replicate 16 { Ctx.reset with pages := [onePage, codePage] } := rfl
  have h2 : ((flat m).dev 0).scan = none := rfl
  unfold State.takesByte
  rw [flat_page, flat_phys, if_pos h]
  simp [State.frameLocked, h1, h2, onePage, codePage, framesMeet]
  omega

theorem flat_watch (m : Memory) (c : NmuCmd) (hw : c.word = ax.cur.word) (a n : Nat) (write : Bool) :
    (flat m).watchChk c.word .hbm a n write = none := by
  rw [hw]
  simp [State.watchChk, State.watchOf, show (flat m).ctxW ax.cur.word = 0 from rfl, show ax.cur.word.id.dev = 0 from rfl,
    (flat_ctx m).2, chk]

theorem flat_unwatched (m : Memory) (c : NmuCmd) (hw : c.word = ax.cur.word) (rs : List (Nat × Nat)) :
    Unwatched (flat m) c rs := fun _ _ => flat_watch m c hw _ _ _

theorem flat_reads (m : Memory) (c : NmuCmd) (hw : c.word = ax.cur.word) (rs : List (Nat × Nat)) : Reads (flat m) c rs := by
  refine ⟨flat_unwatched m c hw rs, fun r _ => ?_⟩
  have hq : ((flat m).dev c0.dev).hbmPoison = [] := rfl
  have none (l : List Nat) : l.filter (fun _ => false) = [] := List.filter_eq_nil_iff.mpr (by simp)
  rw [hw]
  simp [State.poisonChk, State.poisonLines, show ax.cur.word.id = c0 from rfl, hq, none]

theorem flat_writes (m : Memory) (c : NmuCmd) (hw : c.word = ax.cur.word) (rs : List (Nat × Nat))
    (h : ∀ r ∈ rs, r.1 + r.2 ≤ 0x40000000) : Writes (flat m) c rs := by
  refine ⟨fun _ _ => flat_watch m c hw _ _ _, ?_⟩
  unfold Takes
  rw [hw, show (flat m).ctxW ax.cur.word = 0 from rfl, show ax.cur.word.id.dev = 0 from rfl]
  intro r hr i hi
  have := h r hr
  refine ⟨flat_takes m _ (by omega), fun y _ hy => ?_⟩
  rwa [flat_phys, flat_phys] at hy

/-- Handle of a tensor of 16 F32 elements at 0x1000 with its log area at 2 MiB and depth 63. -/
def vector : BitVec 256 :=
  BitVec.ofNat 256 (0x1000 / 64 * 2 ^ 208 + 16 * 2 ^ 160 + 2 ^ 128 + 2 ^ 96 + 2 ^ 64 + 2 ^ 192 + 2 ^ 35 + 63 * 2 ^ 27 + 1)

/-- The box of one element. -/
def single (i : Nat) : Box := [(i, i), (0, 0), (0, 0), (0, 0)]

/-- A patch command with tags and the box of all elements. -/
def tagged (op : NmuOp) (tag tag2 ntag : Nat) (second : List Byte) : NmuCmd :=
  ⟨op, wordOf .ax false, vector, vector, 50, 64, 1, 1, 0x1000, 0,
    BitVec.ofNat 512 (tag * 2 ^ 480 + tag2 * 2 ^ 448 + ntag * 2 ^ 416 + 0x8000 * 2 ^ 352 + 15 * 2 ^ 224),
    List.replicate 64 0, second, none⟩

/-- The patches 7, an ADD on element 3, and 8, an ADD on element 4. -/
def adds : List (BitVec 512) := [slotBits ⟨7, 0, 0, single 3, 0, #[0], #[]⟩ 1 0, slotBits ⟨8, 0, 0, single 4, 64, #[0], #[]⟩ 2 64]

/-- A memory whose log area at 2 MiB holds some patches, and zero values. -/
def loggedOf (slots : List (BitVec 512)) : Memory :=
  writeBytes (writeBytes [] (2 ^ 21) (recordBytes (BitVec.ofNat 512 (slots.length * 2 ^ 24)))) (2 ^ 21 + 64) (slots.flatMap recordBytes)
/-- The same of the first n of those patches. -/
def logged (n : Nat) : Memory := loggedOf (adds.take n)

/-- The chain there. -/
def logChain (n : Nat) : List Patch := ((flat (logged n)).chainOf 0 0 (tensorOf vector)).getD []

theorem logged_chain : ∀ n ∈ [0, 1, 2],
    ((flat (logged n)).chainOf 0 0 (tensorOf vector)).isSome = true ∧ (logChain n).length = n ∧ (flat (logged n)).memWf := by
  unfold State.memWf
  decide +kernel

theorem witness_chains_roomy : ∀ c ∈ [tagged .papplyAdd 9 0 0 [], tagged .pcomm 7 8 0 []], Roomy (flat (logged 2)) c (tensorOf vector) (boxOf c.desc) := by
  have far : ∀ c ∈ [tagged .papplyAdd 9 0 0 [], tagged .pcomm 7 8 0 []], c.word = ax.cur.word ∧
      ∀ e ∈ boxElems (tensorOf vector) (boxOf c.desc), 0x1000 + 4 * e + 4 ≤ 2 ^ 21 := by decide +kernel
  have w : (tensorOf vector).w = 4 ∧ (tensorOf vector).base = 0x1000 ∧ (tensorOf vector).log = 2 ^ 21 ∧ (tensorOf vector).ext = 64 := by decide +kernel
  intro c hc
  obtain ⟨hw, he⟩ := far c hc
  have view : ∀ r ∈ viewOf (tensorOf vector) (boxOf c.desc), r.1 + r.2 ≤ 2 ^ 21 := by
    intro r hr
    obtain ⟨e, h, rfl⟩ := List.mem_map.mp hr
    rw [w.1, w.2.1]
    exact he e h
  refine ⟨flat_reads _ c hw _, flat_writes _ c hw _ ?_, fun r hr => .inl (w.2.2.1 ▸ view r hr)⟩
  intro r hr
  rcases List.mem_cons.mp hr with rfl | hr
  · rw [w.2.2.1]; omega
  rcases List.mem_cons.mp hr with rfl | hr
  · simp only [Tensor.store, w.2.2.1, w.2.2.2]; omega
  · have := view r hr
    omega

/-- The refold of a new chain over the box of a command needs no more work than it gives, and no NaN. -/
def foldsWell (n : Nat) (c : NmuCmd) (new : List Patch) : Bool :=
  let x := tensorOf vector
  decide (refoldWork x (boxOf c.desc) (new.map (·.box)) ≤ c.work) &&
    (refoldFrom x new 1 ((flat (logged n)).elemAt 0 0 x x.image) (boxElems x (boxOf c.desc))).nans.isEmpty

theorem witness_chains_apply :
    let c := tagged .papplyAdd 9 0 0 []
    let x := tensorOf vector
    x.frozen = false ∧ targetHandle c = vector ∧ findTag (logChain 2) (dTag c) = none ∧ (logChain 2).length < x.depth ∧
      c.pbytes / 64 ≤ c.work ∧ c.poison = none ∧ (fmtOf x.tag).isSome = true ∧ (alloc x (logChain 2) (spanSize x 0 (boxOf c.desc))).isSome = true ∧
      ∀ e ∈ boxElems x (boxOf c.desc), (foldStep x e ⟨(flat (logged 2)).elemAt 0 0 x x.base e, 0, [], []⟩ 3
        ⟨9, 0, 0, boxOf c.desc, 128, valuesOf 4 16 c.input, #[]⟩).nans = [] := by decide +kernel

theorem witness_chains_change :
    (let c := tagged .pdrop 7 0 0 []
     findTag (logChain 1) (dTag c) = some 0 ∧ (∃ p ∈ (logChain 1)[0]?, boxWithin p.box (boxOf c.desc) = true) ∧
      foldsWell 1 c ((logChain 1).eraseIdx 0) = true) ∧
    (let c := tagged .pinv 7 0 9 []
     let x := tensorOf vector
     findTag (logChain 1) (dTag c) = some 0 ∧ findTag (logChain 1) (dNtag c) = none ∧
      ∃ p ∈ (logChain 1)[0]?, boxWithin p.box (boxOf c.desc) = true ∧ ∃ off ∈ alloc x (logChain 1) (spanSize x p.kind p.box),
        foldsWell 1 c (insertAfter (logChain 1) 0 (inversePatch x c p off)) = true) ∧
    (let c := tagged .pcomm 7 8 0 []
     findTag (logChain 2) (dTag c) = some 0 ∧ findTag (logChain 2) (dTag2 c) = some 1 ∧
      ∃ p ∈ (logChain 2)[0]?, ∃ q ∈ (logChain 2)[1]?, boxWithin p.box (boxOf c.desc) = true ∧ boxWithin q.box (boxOf c.desc) = true ∧
        commutes p q = true ∧ foldsWell 2 c [q, p] = true) := by decide +kernel

/-- The patches 7, an ADD, and 8, a SET, both on element 3, and a view that shows 1.0 there or the fold. -/
def mixed (shown : Bool) : Memory :=
  let m := loggedOf [slotBits ⟨7, 0, 0, single 3, 0, #[0], #[]⟩ 1 0, slotBits ⟨8, 2, 0, single 3, 64, #[0], #[0]⟩ 2 64]
  if shown then writeBytes m 0x100C [0, 0, 0x80, 0x3F] else m

/-- How many elements of the view a squash of the patches 7 to 8 changes, where it meets no obstacle. -/
def squashed (m : Memory) (c : NmuCmd) : Option Nat :=
  let x := tensorOf vector
  let s := flat m
  let ch := (s.chainOf 0 0 x).getD []
  let adds := ch.all (fun q => q.kind != 2)
  let hull := ch.foldl (fun b p => boxHull b p.box) ((ch.head?.map (·.box)).getD [])
  let folded (e : Nat) : Fold := if adds then squashSum x e ⟨0x80000000, 0, [], []⟩ 1 ch
    else foldElem x e ⟨s.elemAt 0 0 x x.image e, 0, [], []⟩ 1 ch
  let new : List Patch := [⟨dNtag c, if adds then 1 else 2, 0, hull, 0, ((boxElems x hull).map (fun e => (folded e).x)).toArray, #[]⟩]
  if findTag ch (dTag c) = some 0 ∧ findTag ch (dTag2 c) = some 1 ∧ findTag [] (dNtag c) = none ∧ boxWithin hull (boxOf c.desc) = true ∧
      (alloc x [] (spanSize x (if adds then 1 else 2) hull)).isSome = true ∧ (∀ e ∈ boxElems x hull, (folded e).nans = []) ∧
      refoldWork x (boxOf c.desc) (new.map (·.box)) ≤ c.work ∧
      (refoldFrom x new 1 (s.elemAt 0 0 x x.image) (boxElems x (boxOf c.desc))).nans = [] then
    some ((boxElems x (boxOf c.desc)).filter (fun e => s.elemAt 0 0 x x.base e != foldAt s c x new e)).length
  else none

theorem witness_chains_squash :
    squashed (logged 2) (tagged .psquash 7 8 9 []) = some 0 ∧ squashed (mixed false) (tagged .psquashX 7 8 9 []) = some 0 ∧
    squashed (mixed true) (tagged .psquashX 7 8 9 []) = some 1 ∧
    (findTag (logChain 2) 7 = some 0 ∧ (0 : Nat) ≤ 0) := by decide +kernel

/-- ptrans with the slot and the values of patch 7. -/
def copying : NmuCmd := tagged .ptrans 7 0 9 (recordBytes (adds.headD 0) ++ [0, 0, 0, 0])

theorem witness_chains_copy :
    let x := tensorOf vector
    findTag (logChain 0) (dNtag copying) = none ∧ copying.poison = none ∧ copying.second.length ≠ 1 ∧ (logChain 0).length < x.depth ∧
      ∃ p ∈ copiedPatch copying, boxOk x p.box = true ∧ boxWithin p.box (boxOf copying.desc) = true ∧
        ∃ off ∈ alloc x (logChain 0) (spanSize x p.kind p.box),
          foldsWell 0 copying [⟨9, p.kind, 0, p.box, off, p.vals, #[]⟩] = true := by decide +kernel

/-- ptrans.a behind patch 7 of a patch on element 4, an ADD or a SET, or behind a patch that does not exist. -/
def anchored (kind anchor : Nat) : NmuCmd :=
  tagged .ptransA 7 anchor 9 (recordBytes (slotBits ⟨7, kind, 0, single 4, 0, #[0], #[]⟩ 1 0) ++ List.replicate 8 0)

theorem witness_chains_anchor :
    (∀ kind ∈ [0, 2], ∀ anchor ∈ [7, 5], findTag (logChain 2) (dNtag (anchored kind anchor)) = none ∧
      ((copiedPatch (anchored kind anchor)).map (fun p => (p.kind, boxWithin p.box (boxOf (anchored kind anchor).desc)))) = some (kind, true)) ∧
    (findTag (logChain 2) (dTag2 (anchored 0 7)) = some 0 ∧ findTag (logChain 2) (dTag2 (anchored 0 5)) = none) ∧
    (∀ q ∈ (logChain 2).drop 1, commutes ⟨9, 0, 0, single 4, 128, #[0], #[]⟩ q = true) ∧
    (((logChain 2).drop 1).find? (fun q => !commutes ⟨9, 2, 0, single 4, 128, #[0], #[0]⟩ q)).isSome = true ∧
    (∃ q ∈ (logChain 2)[0]?, ∃ r ∈ (logChain 2)[1]?, foldsWell 2 (anchored 0 7) [q, ⟨9, 0, 0, single 4, 128, #[0], #[]⟩, r] = true) := by
  decide +kernel

theorem witness_chains_reads :
    Reads (flat (logged 1)) (tagged .papplyAdd 9 0 0 []) (viewOf (tensorOf vector) (boxOf (tagged .papplyAdd 9 0 0 []).desc)) ∧
    Unwatched (flat (logged 0)) copying ((copyTouched copying).map (fun r => (r.1, r.2.1))) ∧
    Reads (flat (logged 1)) (tagged .pinfo 7 0 0 []) [areaOf (tensorOf vector) 1] ∧
    (tagged .plog 0 0 0 []).pbytes = 64 ∧ dOut (tagged .plog 0 0 0 []) ≠ noAddr ∧
    (((logChain 2).zipIdx.filter (fun p => p.1.rgn == dTag2 (tagged .plogR 0 0 0 []) % 2 ^ 13)).length = 2 ∧
      dOut (tagged .plogR 0 0 0 []) ≠ noAddr) :=
  ⟨flat_reads _ _ rfl _, flat_unwatched _ _ rfl _, flat_reads _ _ rfl _, rfl, by decide +kernel, by decide +kernel⟩

theorem witness_chains_nothing :
    (findTag (logChain 1) (dTag (tagged .papplySet 7 0 0 []))).isSome = true ∧
    (findTag (logChain 1) (dNtag (tagged .pinv 8 0 7 []))).isSome = true ∧
    findTag (logChain 1) (dTag (tagged .pdrop 9 0 0 [])) = none ∧
    (findTag (logChain 1) (dNtag (tagged .pinv 9 0 8 [])) = none ∧ findTag (logChain 1) (dTag (tagged .pinv 9 0 8 [])) = none) := by
  decide +kernel

/-- A sketch command of one element with LR, BC1, BC2 and EPS of 1.0. -/
def counting (op : NmuOp) (hb : BitVec 256) (second : List Byte) : NmuCmd :=
  ⟨op, wordOf .ax false, sketch, hb, 1, 0, 1, 1, 0x1000, 0,
    BitVec.ofNat 512 (2 ^ 416 + 0x3F800000 * (2 ^ 288 + 2 ^ 256 + 2 ^ 224 + 2 ^ 192)), List.replicate 64 0, second, none⟩

theorem witness_countersChange :
    ((flat []).memWf ∧ sketchWork (counting .skopt sketch []) ≤ 1 ∧ kN (counting .skinit 0 []) = 1 ∧
      4 ≤ (sketchOf sketch).k ∧ (sketchOf sketch).k ≤ 30) ∧
    (hBase sketch ≠ hBase 0 ∧ (counting .skadd 0 [0, 0, 0, 0]).second.length = 4 * kN (counting .skadd 0 [0, 0, 0, 0])) ∧
    (∀ op hb second, CountersReadable (flat []) (counting op hb second)) ∧
    Writes (flat []) (counting .skupd 0 []) (((sketchOf sketch).places 0).map (fun x => ((sketchOf sketch).base + 4 * x.1, 4))) ∧
    Writes (flat []) (counting .skinit 0 []) [((sketchOf sketch).base, 4)] := by
  refine ⟨?_, by decide +kernel, fun op hb second => ⟨rfl, flat_reads _ _ rfl _, fun _ => ⟨flat_unwatched _ _ rfl _, fun _ =>
    flat_reads _ _ rfl _⟩⟩, flat_writes _ _ rfl _ (by decide +kernel), flat_writes _ _ rfl _ (by decide +kernel)⟩
  unfold State.memWf
  decide +kernel

theorem witness_countersChange_skcpy :
    let c := { counting .skcpyOut 0 [] with desc := BitVec.ofNat 512 (257 * 2 ^ 416), work := 257 }
    CountersReadable (flat []) c ∧ kN c = 257 ∧ sketchWork c ≤ c.work :=
  ⟨⟨rfl, flat_reads _ _ rfl _, fun h => absurd h (by decide)⟩, by decide +kernel, by decide +kernel⟩

theorem witness_countersChange_skopt :
    let c := counting .skopt sketch []
    let f (x : Nat) : Val := valOf fF32 x
    hBase c.ha = hBase c.hb ∧ (rne fF32 (addV .rne (f 0) (f (kEps c)))).bits ≠ 0 ∧
      (rne fF32 (mulV (negV (f (kLr c))) (f (rne fF32 (divV (f 0) (f (kEps c)))).bits))).nan = false := by decide +kernel

theorem witness_FabricWordsIssue :
    (let s := set ax (fun c => { c with a := vset (vset c.a 6 0x1000) 7 0x2000, n := vset c.n 2 256 })
     (s.me.ra 6).toNat % 64 = 0 ∧ (s.me.ra 7).toNat % 64 = 0 ∧ (s.me.rn 2).toNat % 256 = 0 ∧ (s.me.rn 2).toNat ≤ 16384 ∧
      (s.herdMembers 0).filter (fun x => x.2 != s.id) = [(0, c1)] ∧ (s.herdMembers 1).filter (fun x => x.2 != s.id) = [] ∧
      s.watchChk s.cur.word .sp 0x1000 256 false = none ∧ s.id ∈ s.herd s.id 0 ∧ s.id ∉ s.herd s.id 2 ∧ s.me.ports = [] ∧
      s.poisonChk s.id 0 .sp 0x1000 256 = none) ∧
    (ax.me.rn 2 = 0 ∧ ax.herd ax.id 0 ≠ [] ∧ vget 0 ax.me.tr 15 = 0) ∧
    (vget 0 (set ax (fun c => { c with tr := vset c.tr 15 1 })).me.tr 15).toNat ≠ 0 := by decide

theorem witness_FabricWordsIssue_outside :
    let s := set ax (fun c => { c with a := vset (vset c.a 6 0x1000) 7 0x2000, n := vset c.n 2 256, ports := [(portSR, 104)] })
    s.id ∉ s.herd s.id 2 ∧ (s.me.ra 6).toNat + (s.me.rn 2).toNat ≤ 2 ^ 21 ∧ s.me.ports ≠ [] := by decide

theorem witness_FabricWordsIssue_ports :
    let s := set ax (fun c => { c with a := vset (vset c.a 6 0x1000) 7 0x2000, n := vset c.n 2 512, ports := [(portSR, 104)] })
    (s.me.rn 2).toNat ≠ 0 ∧ ∃ j < (s.me.rn 2).toNat / 256, (portSR, s.now + 4 * j) ∈ s.me.ports := by decide

/-- A word of AX on a core of herd 0, which holds these cores. -/
def herding (id : CoreId) (h : List CoreId) : State :=
  let s := ax.modRun 1 (fun r => { r with herds := [h] })
  { s with cur := { s.cur with word := { s.cur.word with id := id } }, cores := [(id, ax.me)] }

theorem witness_FabricWordsIssue_coll :
    ((herding c0 [c0, c1]).herdMembers 0).findIdx (fun x => x.2 == c0) = 0 ∧ 1 < ((herding c0 [c0, c1]).herdMembers 0).length ∧
    ((herding c1 [c0, c1]).herdMembers 0).findIdx (fun x => x.2 == c1) = 1 ∧
    ((herding ⟨0, 0, 2⟩ [c0, c1, ⟨0, 0, 2⟩]).herdMembers 0).findIdx (fun x => x.2 == ⟨0, 0, 2⟩) = 2 ∧
    ((herding c0 [c0]).herdMembers 0).length = 1 ∧ (herding c1 [c0, c1]).id ∈ (herding c1 [c0, c1]).herd c1 0 := by decide

/-- Link 17 of device 0 is up; a flit entered it at a count, or none has. -/
def linked (t0 : Option Nat) : State := ax.modLink 0 17 (fun x => { x with up := true, lastEntry := t0 })

/-- A collective of two members, of which the first has contributed. -/
def sumJob : CollJob := ⟨ax.cur.word, .sumF32, 0, 0, 0, 256, [(0, c0), (0, c1)], 1, 48, 90⟩
def contributed (n : Nat) : State :=
  set ax (fun c => { c with colls := (List.range n).map (fun i => ⟨{ sumJob with index := i }, 0, List.replicate 256 0⟩) })

theorem witness_FabricStepsPerform :
    (ax.lands ax.cur.word c0 = true ∧ ax.lands ax.cur.word c1 = false ∧ ax.memWf ∧ c0 = ax.cur.word.id ∧
      ax.watchChk ax.cur.word .sp 0 256 true = none) ∧
    (((linked none).link 0 17).up = true ∧ ((linked none).link 0 17).lastEntry = none ∧ (48 : Int).natAbs ≤ 48 ∧
      48 < (-49 : Int).natAbs) ∧
    (((linked (some 96)).link 0 17).lastEntry = some 96 ∧ 96 + 4 ≤ (linked (some 96)).now) ∧
    (((linked (some 97)).link 0 17).lastEntry = some 97 ∧ (linked (some 97)).now < 97 + 4) ∧
    (ax.link 0 17).up = false ∧
    ((contributed 1).mine ax.cur.word = true ∧ contribution ((contributed 1).coreAt c0) sumJob 0 1 = none) ∧
    (let xs := (contributed 2).me.colls
     xs.length = sumJob.members.length ∧ ∀ i < 2, contribution ((contributed 2).coreAt c0) sumJob 0 i = xs[i]? ∧
      ∀ x ∈ xs[i]?, x.bytes.length = 256 ∧ contribution ((contributed 2).coreAt c0) sumJob 0 i = some x) := by
  unfold State.memWf
  decide +kernel

/-- Link 17 of device 0 is up, shows an offset and has been silent since a count. -/
def showing (ofs : Int) (till : Option Nat) : State :=
  ax.modLink 0 17 (fun x => { x with up := true, ofs := BitVec.ofInt 8 ofs, silent := till })

theorem witness_FabricSteps_ends :
    (ax.deaf 0 17 = true ∧ (showing 0 (some 163)).deaf 0 17 = true ∧ (showing 0 (some 164)).deaf 0 17 = false) ∧
    (∀ hop ∈ [(0, 17), (1, 3)], [hop].head? = some hop) ∧
    ((showing 48 none).deaf 0 17 = false ∧ ((showing 48 none).link 0 17).ofs.toInt.natAbs ≤ 48 ∧
      48 < ((showing (-49) none).link 0 17).ofs.toInt.natAbs) := by decide

/-- A copy whose data comes from core 0. -/
def peerCopy : CopyJob := ⟨.peer, .sp, 0, 0, 64, 256, 24, 300, 4, some c0, 48⟩
/-- A feed whose two entries come from core 0. -/
def peerFeed : FeedJob := ⟨3, .peer, 0, 2, .f32, some 256, 256, 24, 460, 4, some c0, 48⟩
/-- The first bytes of HBM of device 0 are poisoned. -/
def spoilt : State := (tensor ax).modDev 0 (fun x => { x with hbmPoison := [0] })

theorem witness_peerRequestsPerform :
    ((ax.pagesOf 0 (ax.ctxW ax.cur.word) 0x30000 8).isNone = true ∧ (ax.pagesOf 0 (ax.ctxW ax.cur.word) 0xFFF8 8).isSome = true) ∧
    (ax.mine ax.cur.word = true ∧ ax.poisonChk c0 (ax.ctxW ax.cur.word) .hbm 0xFFF8 8 = none ∧
      ax.watchChk ax.cur.word .peer (ax.peerAddr ax.cur.word c0 0xFFF8) 8 false = none) ∧
    (peerCopy.target = some c0 ∧ (ax.coreAt c0).isBound peerCopy.handle = false ∧
      ((tensor ax).coreAt c0).isBound peerCopy.handle = true ∧ (tensor ax).watchChk ax.cur.word .peer ((tensor ax).peerAddr ax.cur.word c0 0) 64 false = none ∧
      (tensor ax).now < (tensor ax).now + 300 + peerCopy.h - peerCopy.step * 0) ∧
    (peerFeed.target = some c0 ∧ ax.mine ax.cur.word = true ∧ (ax.coreAt c0).isBound peerFeed.handle = false ∧
      ((tensor ax).coreAt c0).isBound peerFeed.handle = true ∧ (tensor ax).peerPoison c0 0 0 256 = [] ∧ spoilt.peerPoison c0 0 0 256 ≠ [] ∧
      (tensor ax).watchChk ax.cur.word .peer ((tensor ax).peerAddr ax.cur.word c0 0) 256 false = none) := by
  decide

/-- The first flit of an entry of a feed has come, with the place it takes; the sixteenth is due at this count. -/
def arriving (ready : Nat) : State :=
  set ax (fun c => { c with q := vset c.q 3 [⟨⟨0, .f32, false⟩, ready, ax.cur.word, 0, []⟩] })

theorem witness_peerFeedsArrive :
    ax.mine ax.cur.word = true ∧ peerFeed.target.isSome = true ∧ peerFeed.q < 8 ∧ (List.replicate 256 (7 : Byte)).length = 256 ∧
    (∀ e ∈ vget [] (ax.coreAt c0).q 3, e.word = ax.cur.word → e.ready ≠ ax.now + 24 * (15 - 0) + 1) ∧
    vget [] ((arriving 101).coreAt c0).q 3 = [⟨⟨0, .f32, false⟩, ax.now + 24 * (15 - 15) + 1, ax.cur.word, 0, []⟩] ∧ (0 < 15 ∧ 15 < 16) := by
  decide +kernel

theorem witness_peerRequests_executable :
    ∃ ps, ax.pagesOf 0 (ax.ctxW ax.cur.word) 0x10000 8 = some ps ∧ ∃ p ∈ ps, p.exec.isSome = true :=
  ⟨[⟨0x10000, 0x10000, 0x10000, some 0, false, false, 0, [], 0⟩], by decide, by decide⟩

/-! ### Itineraries -/

/-- The itinerary in a state of its life, with one member of shape V32. -/
def standing (x : RunSt) : State :=
  sq.modRun 1 (fun r => { r with st := x, record := BitVec.ofNat 512 (2 ^ 45), members := [(0, 0)] })

theorem witness_DeparturesAndLegs :
    ((standing .departing).run 1).st = .departing ∧ ((standing .running).run 1).st ≠ .departing ∧
    (((standing .halted).run 1).issues sq.now = false ∧ ((standing .running).run 1).issues sq.now = true) ∧
    ((standing .running).run 1).live = true ∧ c0 ∈ (standing .running).inLeg 1 0 ∧
    ((standing .running).coreAt c0).reached = false ∧ ((standing .running).coreAt c0).timedEngine ≠ none := by decide +kernel

/-- Every core of an itinerary of one core has reached the end of leg 0, at yield tick 64. -/
def reached : State :=
  let s := standing .running
  { s with cores := (coresOf (s.run 1)).map (fun id => (id, { Core.fresh with run := some 1, reached := true, yielded := some 64 })) }

theorem witness_DeparturesAndLegs_reached :
    (reached.run 1).issues reached.now = true ∧ (coresOf (reached.run 1)).Nodup ∧
    (∀ id ∈ coresOf (reached.run 1), (reached.coreAt id).run = some 1 ∧ (reached.coreAt id).reached = true) ∧
    (∀ id ∈ reached.inLeg 1 0, (reached.coreAt id).timedEngine = none) ∧
    ∀ id ∈ reached.inLeg 1 0, (reached.coreAt id).yielded = some 64 ∧ (reached.coreAt id).quiescent reached.now = true := by
  decide +kernel

/-- Core 0 of a standing itinerary, changed. -/
def member (f : Core → Core) : State := (standing .running).modCore c0 f

/-- Every core but core 0 has reached the end of the one leg of the itinerary, with a request for pre-emption or none. -/
def retiring (pending : Option Nat) : State :=
  let s := ((standing .running).modRun 1 (fun r => { r with record := BitVec.ofNat 512 (2 ^ 256 + 2 ^ 45) })).modCtx 0 0 (fun x => { x with pending := pending })
  { s with cores := (coresOf (s.run 1)).map (fun id => (id, { Core.fresh with run := some 1, reached := id != c0 })) }

theorem witness_itinerariesRetire :
    (∀ pending ∈ [none, some 100, some 101], let s := retiring pending
      s.mine sq.cur.word = true ∧ (s.run 1).st = .running ∧ s.faultedNow 1 c0 = false ∧ (0 + 1 = (s.run 1).legs) ∧
        (s.run 1).unhalted s.now = true ∧ (s.coreAt c0).leg = 0 ∧ (s.run 1).ctx < 16 ∧ ((s.run 1).members.map (·.1)).Nodup ∧
        (∀ id ∈ coresOf (s.run 1), id ≠ c0 → (s.coreAt id).reached = true ∧ (s.coreAt id).leg = 0) ∧
        (s.ctx 0 0).evq.length < 256 ∧ (s.ctx 0 0).pending = pending) ∧
    (let s := standing .running
     s.mine sq.cur.word = true ∧ s.faultedNow 1 c0 = false ∧ ∃ id ∈ coresOf (s.run 1), id ≠ c0 ∧ (s.coreAt id).reached = false) ∧
    (sq.mine { sq.cur.word with run := 2 } = false ∧ ((standing .saving).run 1).st ≠ .running ∧
      (after (exec (.trap 0 9) sq)).faultedNow 1 c0 = true) := by decide +kernel

theorem witness_yieldsAreTaken :
    (let s := standing .running
     s.mine sq.cur.word = true ∧ (s.run 1).st = .running ∧ (s.ctx 0 0).pending = none) ∧
    (let s := retiring (some 100)
     s.mine sq.cur.word = true ∧ (s.ctx (s.run 1).home (s.run 1).ctx).pending = some 100 ∧ 100 ≤ s.now ∧ s.faultedNow 1 c0 = false ∧
      (s.run 1).unhalted s.now = true ∧ (coresOf (s.run 1)).Nodup) ∧
    (∀ s ∈ [(retiring (some 100)).modRun 1 (fun r => { r with halt := some (100, .itinerary, 0) }),
        (retiring (some 100)).modRun 1 (fun r => { r with unwinds := [⟨100, 3, 0, 0x20⟩] })],
      s.mine sq.cur.word = true ∧ (s.run 1).st = .running ∧ s.faultedNow 1 c0 = false ∧ (s.run 1).unhalted s.now = false) := by
  decide +kernel

theorem witness_DeparturesAndLegs_missed :
    ((member id).run 1).issues (member id).now = true ∧ ((member id).run 1).live = true ∧ c0 ∈ coresOf ((member id).run 1) ∧
    ((member id).coreAt c0).run = some 1 ∧ ((member id).coreAt c0).reached = false := by decide +kernel

theorem witness_DeparturesAndLegs_yields :
    (∀ id ∈ reached.inLeg 1 0, (reached.coreAt id).yieldDue ≠ some 64) ∧
    (∃ id ∈ (member (fun c => { c with yieldDue := some 64 })).inLeg 1 0, ((member (fun c => { c with yieldDue := some 64 })).coreAt id).yieldDue = some 64) ∧
    (((member id).coreAt c0).yielded ≠ some 64 ∧ ((member id).coreAt c0).sq.issued ≠ some (member id).now) ∧
    (let s := member (fun c => { c with yielded := some 64, accessesTill := 101 })
     (s.coreAt c0).yielded = some 64 ∧ (s.coreAt c0).quiescent s.now = false) := by decide +kernel

theorem witness_PreemptionKeepsCores :
    ((2 : Reg) ≠ 1 ∧ (1 : Reg) ≠ 2) ∧
    (let s := standing .running
     s.activeRun 0 0 = some (1, s.run 1) ∧ (s.run 1).home = 0 ∧ (s.run 1).st = .running ∧ (s.ctx 0 0).pending = none ∧
      (s.ctx 0 0).suspHeld = false) ∧
    ((standing .running).modCtx 0 0 (fun x => { x with pending := some 200 })).activeRun 0 0 =
      some (1, ((standing .running).modCtx 0 0 (fun x => { x with pending := some 200 })).run 1) ∧
    ((standing .retired).activeRun 0 0 = none ∧ ((standing .retired).ctx 0 0).suspHeld = false ∧
      ((standing .retired).ctx 0 0).queues.toList.all List.isEmpty = true) ∧
    ((standing .saving).run 1).st = .saving := by decide +kernel

/-- The itinerary resumes from the cores it was saved with. -/
def resuming : State :=
  (standing .resuming).modRun 1 (fun r => { r with savedCores := (coresOf r).map (fun id => (id, Core.fresh)) })

theorem witness_PreemptionKeepsCores_resume :
    (resuming.run 1).st = .resuming ∧ (resuming.run 1).savedCores.map (·.1) = coresOf (resuming.run 1) ∧
    (coresOf (resuming.run 1)).Nodup := by decide +kernel

/-- Context 0 has heads that are held. -/
def holding : State := (standing .retired).modCtx 0 0 (fun x => { x with suspHeld := true })

theorem witness_PreemptionKeepsCores_readmits :
    ((standing .suspended).activeRun 0 0 = some (1, (standing .suspended).run 1) ∧ ((standing .suspended).run 1).home = 0 ∧
      ((standing .suspended).run 1).st = .suspended) ∧
    holding.activeRun 0 0 = none ∧ holding.memberOnly 0 0 = false ∧ (holding.ctx 0 0).suspHeld = true := by decide +kernel

theorem witness_PreemptionKeepsCores_refused :
    Config.functionOf 0 3 + 1 ≠ Config.functionOf 0 3 ∧
    ((standing .running).modRun 1 (fun r => { r with members := [(1, 0)], home := 1 })).memberOnly 1 0 = false ∧
    ((standing .running).modRun 1 (fun r => { r with members := [(0, 0)], home := 1 })).memberOnly 0 0 = true ∧
    ((standing .retired).memberOnly 0 0 = false ∧ ((standing .retired).ctx 0 0).pending = none) ∧
    ∀ x ∈ (standing .retired).runs, x.2.st ≠ .running := by
  refine ⟨by omega, ?_⟩
  decide +kernel

/-- A halt of fault count 90 stands; device 0 runs the itinerary. -/
def halting : State :=
  ((standing .running).modRun 1 (fun r => { r with halt := some (90, .itinerary, 0) })).setPart 0 0 ⟨some 1, false⟩

theorem witness_haltsAndHolds :
    (sq.run 1).live = true ∧ ((standing .retired).run 1).live = false ∧ (sq.run 1).halt = none ∧
    ((sq.run 1).stopDue 0 90 0 0x20 = false ∧ (sq.run 1).faults = []) ∧
    ((halting.run 1).halt = some (90, .itinerary, 0) ∧ (halting.run 1).st = .running ∧ (0, 0) ∈ (halting.run 1).members ∧
      (halting.partOf 0 0).run = some 1 ∧ (halting.partOf 0 0).halted = false) ∧
    (sq.run 1).keptFault = none ∧
    ((after (exec (.trap 0 9) sq)).run 1).keptFault ≠ none ∧
    ({ sq with trigger := some 8292 }.trigger = some 8292 ∧ sq.trigger ≠ some 8292) := by decide +kernel

/-- An unwind of region 8191 that two cores follow at its tick. -/
def unwinding : State :=
  let s := inKraal.modRun 1 (fun r => { r with unwinds := [⟨0, 8191, 3, 0x20⟩], herds := [[], [], [], [c0, c1]] })
  { s with now := 8192, cores := [(c0, inKraal.coreAt c0), (c1, inKraal.coreAt c0)] }

theorem witness_unwindEntersHandler :
    (unwinding.run 1).st = .running ∧ ((unwinding.run 1).herds[3]?).getD [] = [c0, c1] ∧ [c0, c1].Nodup ∧
    (⟨8191, 0, 0x2000, 90⟩ : Kraal).region = (⟨0, 8191, 3, 0x20⟩ : Unwind).region ∧
    ∀ id ∈ [c0, c1], id.dev = 0 ∧ (unwinding.coreAt id).run = some 1 ∧
      (unwinding.coreAt id).kraal = some ⟨8191, 0, 0x2000, 90⟩ ∧
      (unwinding.run 1).unwindsAt id unwinding.now = some ⟨0, 8191, 3, 0x20⟩ := by decide

theorem witness_unwindBegins :
    let u : Unwind := ⟨100, 8191, 0, 0x42⟩
    let known := inKraal.modRun 1 (fun r => { r with unwinds := [{ u with cause := 0x43 }] })
    (inKraal.run 1).live = true ∧ inKraal.mine sq.cur.word = true ∧ (∀ v ∈ (inKraal.run 1).unwinds, v.t ≠ u.t) ∧
      (inKraal.coreAt c0).kraal = some ⟨8191, 0, 0x2000, 90⟩ ∧
    (known.mine sq.cur.word = true ∧ (known.coreAt c0).kraal = some ⟨8191, 0, 0x2000, 90⟩ ∧
      ∃ v ∈ (known.run 1).unwinds, v.t = u.t ∧ v.region = u.region ∧ v.herd = u.herd) ∧
    ((sq.coreAt c0).kraal = none ∧ (sq.run 1).halt = none ∧ (sq.run 1).st = .running) := by decide

/-- The second core has a kraal of another region open, or none. -/
def strayed (k : Option Kraal) : State := unwinding.modCore c1 (fun c => { c with kraal := k })

theorem witness_unwind_follower :
    ∀ k ∈ [none, some (⟨7, 3, 0x2000, 90⟩ : Kraal)], ((strayed k).run 1).st = .running ∧ (((strayed k).run 1).herds[3]?).getD [] = [c0, c1] ∧
      ((strayed k).coreAt c1).run = some 1 ∧ ((strayed k).run 1).unwindsAt c1 (strayed k).now = some ⟨0, 8191, 3, 0x20⟩ ∧
      ((strayed k).coreAt c1).kraal = k ∧ ∀ k' ∈ k, k'.region ≠ 8191 := by decide

/-- Two unwinds of one count, of a herd of core 0 and a herd of core 1. -/
def twoUnwinds : Run :=
  let fault (core : Nat) (region : BitVec 13) (herd : Nat) : FaultRec :=
    ⟨0, 0, .sq, 0, core, 0x42, 0, 3, wordOf .sq false, true, some (region, herd)⟩
  { run1 with herds := [[c0], [c1]], unwinds := [⟨0, 8191, 0, 0x42⟩, ⟨0, 8190, 1, 0x42⟩], faults := [fault 0 8191 0, fault 1 8190 1] }

theorem witness_unwind_kept :
    twoUnwinds.halt = none ∧ twoUnwinds.kept = none ∧ (∀ u ∈ twoUnwinds.unwinds, twoUnwinds.takesPlace u = true) ∧
    twoUnwinds.keptUnwind ⟨0, 8191, 0, 0x42⟩ = twoUnwinds.keptUnwinds 0 ∧
    (twoUnwinds.keptUnwind ⟨0, 8190, 1, 0x42⟩).isSome = true ∧
    twoUnwinds.keptUnwinds 0 ≠ twoUnwinds.keptUnwind ⟨0, 8190, 1, 0x42⟩ := by decide

/-- A halting core with a dispatch and a scalar access on their way. -/
def leaving : State :=
  halting.modCore c0 (fun c => { c with dispatches := [sent false false], wait := .host (wordOf .sq true) 8 8 none 5 95 })

theorem witness_haltsAndHolds_leaving :
    (leaving.run 1).halt = some (90, .itinerary, 0) ∧ (leaving.partOf 0 0).run = some 1 ∧ c0 ∈ coresOn (leaving.run 1) (0, 0) ∧
    sent false false ∈ (leaving.coreAt c0).dispatches ∧ (sent false false).done = false ∧
    (leaving.coreAt c0).holds false (sent false false).pool 90 = false ∧ (leaving.coreAt c0).holds true false 95 = false ∧
    (leaving.coreAt c0).wait = .host (wordOf .sq true) 8 8 none 5 95 := by decide +kernel

theorem witness_PreemptionKeepsCores_waits :
    let s := (standing .running).modCore c0 (fun c => { c with wait := .event })
    (1, s.run 1) ∈ s.runs ∧ (s.run 1).st = .running ∧ (s.run 1).ctx = 0 ∧ (s.run 1).home = 0 ∧ c0 ∈ coresOf (s.run 1) ∧
      (s.coreAt c0).wait = .event := by decide +kernel

theorem witness_unwind_cause :
    let s := unwinding.modRun 1 (fun r => { r with faults :=
      [⟨0, 0, .sq, 0, 0, 0x42, 0, 3, wordOf .sq false, true, some (8191, 3)⟩] })
    ((s.run 1).keptUnwind ⟨0, 8191, 3, 0x20⟩).isSome = true := by decide

/-! ### Host, firmware, device -/

/-- A V128 record of one device for context 0: tables, leg record and bank at 0, one herd and scope, one core's worth. -/
def goodRecord : BitVec 512 := BitVec.ofNat 512 (0 * 2 ^ 44 + 1 * 2 ^ 264 + 1 * 2 ^ 256)
/-- Device 0 is up and idle. -/
def up : State := (standing .retired).modDev 0 (fun x => { x with bootst := 63 })

theorem witness_hostWrites :
    (Config.functionOf 0 15 + 1 ≠ Config.functionOf 0 15) ∧ (1 : Nat) ≠ 0 ∧
    (up.launchStatus 0 0 goodRecord = 0 ∧ sq.launchStatus 0 0 goodRecord = 2) ∧
    sq.departedHere 0 0 = true ∧ sq.departedHere 0 1 = false ∧
    ((sq.ctx 0 0).evq.length < 256 ∧ (2 : Reg) ≠ 1 ∧ (8291 : Reg).toNat < sq.now + 8192 ∧ 55 + 8 ≤ 63 ∧
      (∀ n ∈ [56, 63], n ≤ 63 ∧ 63 < n + 8)) ∧
    (sq.busyDev 0 = true ∧ (standing .retired).busyDev 0 = false ∧ 128 ≤ ((standing .retired).dev 0).working ∧
      (3 : Reg).toNat ≤ 3) := by
  refine ⟨by omega, by decide, ?_⟩
  decide +kernel

/-- A request for a plain page of 64 KiB at 0x30000. -/
def plainPage : MapReq := ⟨0, 0x30000, 0x10000, 0x30000, none, true, false⟩

/-- The itinerary stands halted on device 0. -/
def stopped : State := (standing .halted).setPart 0 0 ⟨some 1, true⟩

theorem witness_hostWrites_stops :
    stopped.haltedRun 0 0 = some 1 ∧ (0, 0) ∈ (stopped.run 1).members ∧ (∀ m ∈ (stopped.run 1).members, m.1 = 0) ∧
    ((standing .running).now + 8192 ≤ (8292 : Reg).toNat ∧ (standing .running).stoppable 0 0 = some 1 ∧
      ((standing .running).run 1).halt = none) := by decide +kernel

theorem witness_hostMemoryWrites :
    sq.frameLocked 0 0x1FFFF 1 = true ∧ hbmBytes < (hbmBytes - 1) + 2 ∧
    (sq.modCtx 0 0 (fun x => { x with pages := x.pages.map (fun p => { p with tensor := true }) })).frameTensor 0 0xFFFF 1 = true ∧
    (sq.frameLocked 0 0xFFFF 1 = false ∧ sq.frameTensor 0 0xFFFF 1 = false ∧ 0xFFFF + 1 ≤ hbmBytes ∧ sq.memWf) := by
  unfold State.memWf
  decide

/-- A request waits at the scanner of device 0. -/
def asking (ask : Ask) (f : Page → Page) : State :=
  (sq.modDev 0 (fun x => { x with requests := [⟨90, 0, [wordOf .ax false], ask⟩] })).modCtx 0 0 (fun x => { x with pages := x.pages.map f })

/-- A page that fits, requested executable. -/
def execPage : MapReq := { plainPage with exec := some 0, writable := false }

/-- Two requests to scan the frame of the page at 0: for a page of its own, and for the code page moved there. -/
def overData : MapReq := { execPage with frame := 0 }
def moved : Ask := .unmap 0x10000 (some 0)

/-- A command of the word that a request waits for performs at count 705, or stands suspended. -/
def written (ask : Ask) (held : Bool) : State :=
  let s := asking ask id
  let p : Pend := ⟨705, phNmu, 0, 0, 0, 0, c0, .patchPerform (tagged .papplyAdd 9 0 0 [])⟩
  if held then { s with kept := [⟨1, p⟩] } else { s with agenda := [p] }

theorem witness_mappings_wait :
    (∀ ask ∈ [.map overData, moved], let q : Request := ⟨90, 0, [wordOf .ax false], ask⟩
      ((written ask false).dev 0).requests = [q] ∧ (written ask false).lastPi ((written ask false).holdsBack 0 q) = some 705 ∧
      (written ask true).lastPi ((written ask true).holdsBack 0 q) = none ∧
      (written ask true).suspendedAmong ((written ask true).holdsBack 0 q) = true) ∧
    (∃ p ∈ (written moved false).agenda, ∃ x, p.command? = some x ∧ x.1.word.id.dev = 0) ∧
    (pageFits overData = true ∧ overData.exec ≠ none ∧
      (sq.pageOf? 0 0 0x10000).map (fun p => (p.exec, p.size)) = some (some 0, 0x10000)) := by decide +kernel

theorem witness_mappings :
    (pageFits plainPage = true ∧ plainPage.exec = none ∧ pageFits { plainPage with va := 0x8000 } = false) ∧
    (sq.id.dev = 0 ∧ (sq.dev 0).scan = none ∧ sq.memWf ∧ (sq.dev 0).requests = []) ∧
    (((asking (.unmap 0 none) id).dev 0).requests = [⟨90, 0, [wordOf .ax false], .unmap 0 none⟩] ∧
      (asking (.unmap 0 none) id).holdsBack 0 ⟨90, 0, [wordOf .ax false], .unmap 0 none⟩ = [] ∧
      (asking (.unmap 0 none) id).lastPi [] = none ∧ (asking (.unmap 0 none) id).suspendedAmong [] = false ∧
      (asking (.unmap 0 none) id).pageOf? 0 0 0 = some ⟨0, 0x10000, 0, none, true, false, 0, [], 0⟩ ∧
      (⟨0, 0x10000, 0, none, true, false, 0, [], 0⟩ : Page).pins sq.now = 0 ∧
      (asking (.unmap 0 none) (fun p => { p with inFlight := 1 })).pageOf? 0 0 0 = some ⟨0, 0x10000, 0, none, true, false, 1, [], 0⟩ ∧
      0 < (⟨0, 0x10000, 0, none, true, false, 1, [], 0⟩ : Page).pins sq.now) ∧
    ((asking (.map plainPage) id).frameLocked 0 plainPage.frame plainPage.size = false ∧
      (asking (.map plainPage) id).pinnedAt 0 plainPage.ctx plainPage.va plainPage.size = false) ∧
    (pageFits execPage = true ∧ execPage.exec ≠ none ∧ (asking (.map execPage) id).conflicts 0 execPage = false ∧
      (asking (.map { execPage with frame := 0x20000 }) id).conflicts 0 { execPage with frame := 0x20000 } = true) := by
  unfold State.memWf
  decide

/-- A page of zero words holds idles, which the scan of timed code accepts. -/
theorem scanFrom_idles (n : Nat) :
    ∀ (idx : Nat) (before : List IWord), scanFrom .sqTimed idx false before (List.replicate n 0) = none := by
  induction n with
  | zero => intros; rfl
  | succ n ih =>
    intro idx before
    have head : ∀ rest : List IWord, rest.head? = none ∨ rest.head? = some 0 →
        ∃ h, readHead .sqTimed 0 rest = .ok h ∧ h.own = [] ∧ h.ins = .idle 0 0 ∧ h.tail = [] ∧ h.words = 1
      | [], _ => ⟨_, rfl, rfl, rfl, rfl, rfl⟩
      | a :: r, hr => by
        obtain rfl : a = 0 := by simpa using hr
        exact ⟨_, rfl, rfl, rfl, rfl, rfl⟩
    obtain ⟨x, hx, h1, h2, h3, h4⟩ := head (List.replicate n 0) (by cases n <;> simp [List.replicate])
    rw [List.replicate_succ, scanFrom, if_neg (by decide), hx]
    simp only [h1, h2, h3, h4, pageDefects, isHead, isRep, need, transferOff, lowest, List.append_nil, List.isEmpty_nil]
    exact ih (idx + 1) (0 :: before)

theorem execPage_passes (s : State) (h : (s.dev 0).hbm = []) : s.scanVerdict 0 execPage = none := by
  have words (n : Nat) : s.frameWords 0 execPage.frame n = List.replicate n 0 := by
    simp only [State.frameWords, h, List.eq_replicate_iff, List.length_map, List.length_range, List.mem_map, true_and]
    rintro _ ⟨a, -, rfl⟩
    rfl
  have size : ¬ execPage.size = 2 ^ 30 := by decide
  have scan (n : Nat) : scanPage .sqTimed (List.replicate n 0) = none := scanFrom_idles n 0 []
  simp only [State.scanVerdict, show execPage.exec.getD 0 = 0 from rfl, kindOf, words, if_neg size, scan, Option.map_none]

/-- A scan of a page is under way until a count. -/
def scanning (r : MapReq) (done : Nat) (f : Page → Page) : State :=
  (sq.modDev 0 (fun x => { x with scan := some ⟨r, 50, done⟩ })).modCtx 0 0 (fun x => { x with pages := x.pages.map f })

theorem witness_mappings_scan :
    (sq.id.dev = 0 ∧ ((scanning execPage 101 id).dev 0).scan = some ⟨execPage, 50, 101⟩ ∧ (scanning execPage 101 id).now < 101) ∧
    (((scanning execPage 100 id).dev 0).scan = some ⟨execPage, 50, 100⟩ ∧ 100 ≤ (scanning execPage 100 id).now ∧
      ((scanning execPage 100 id).dev 0).requests = [] ∧ (scanning execPage 100 id).scanVerdict 0 execPage = none ∧
      execPage.ctx < 16 ∧ (scanning execPage 100 id).pinnedAt 0 execPage.ctx execPage.va execPage.size = false) ∧
    (let r := { execPage with va := 0x10000 }
     (scanning r 100 (fun p => { p with inFlight := 1 })).pinnedAt 0 r.ctx r.va r.size = true) ∧
    sq.scanVerdict 0 { execPage with exec := some 7 } ≠ none :=
  ⟨by decide, ⟨by decide, by decide, by decide, execPage_passes _ (by decide), by decide, by decide⟩, by decide, by decide⟩

/-- Link 17 of device 0 is up and was last silent at a count. -/
def quiet (till : Option Nat) : State := ax.modLink 0 17 (fun x => { x with up := true, silent := till, plink := 17 })

theorem witness_DeviceSteps :
    ((17#5).toNat < 18 ∧ (ax.link 0 17).up = false ∧ (ax.link 0 17).silent ≠ some (36 + 64)) ∧
    (ax.deaf 0 17 = true ∧ (quiet none).deaf 0 17 = false) ∧
    (((quiet none).link 0 17).up = true ∧ ((quiet none).link 0 17).silent = none ∧
      ((quiet (some 100)).link 0 17).up = true ∧ ((quiet (some 100)).link 0 17).silent = some (36 + 64)) ∧
    ((quiet none).link 0 17).plink.toNat < 18 ∧ 47 < 48 ∧ ((sq.dev 0).life = 0 ∧ (unlocked.dev 0).life = 1) ∧
    ((up.dev 0).bootst ≠ 0 ∧ ∀ r ∈ up.runs, r.2.live = true → ∀ x ∈ r.2.members, x.1 ≠ 0) := by decide +kernel

theorem witness_BackgroundStepsLeaveCores :
    Machine.groupOk ⟨0, [], []⟩ = false ∧ Machine.groupOk ⟨1, [], []⟩ = true ∧ ∀ m, State.reset.busyPart m = false :=
  ⟨by decide, by decide, fun _ => rfl⟩

theorem witness_paceLoss :
    sq.now < (sq.dev sq.id.dev).paceFrom + 2 ^ 22 ∧
    (let s := { sq with now := 2 ^ 22 }
     (s.dev s.id.dev).paceFrom + 2 ^ 22 ≤ s.now ∧ (1, run1) ∈ s.runs ∧ run1.st = .running ∧ (0, 0) ∈ run1.members ∧
      (s.runs.map (·.1)).Nodup) ∧
    ({ State.reset with now := 2 ^ 22 }.runsOn 0 = false ∧ sq.paceDue 0 = false ∧ State.reset.id.dev = 0) := by decide +kernel

/-- An entry of context 2 for partition 3, and a state in which it waits in class 1, since a count. -/
def entry : Queued := ⟨0, [(0, 3)], 40, 40, false, []⟩
def lined (since : Nat) (st : RunSt) : State :=
  ((standing st).modCtx 0 2 (fun x => { x with queues := vset x.queues 1 [{ entry with since := since }] })).modRun 1
    (fun r => { r with cls := 3 })

theorem witness_droverServes :
    (RunsNumbered (lined 40 .running) ∧ (lined 40 .running).id.dev = 0 ∧ (sq.nextServed 0).isNone = true) ∧
    (lined 40 .running).nextServed 0 = some (1, 2, .head entry) ∧ vget 15 ((lined 40 .running).dev 0).served 1 < 16 ∧
    (lined 40 .readmitted).nextServed 0 = some (3, 0, .readmitted 1) ∧
    (∀ c < 16, ∀ k < 4, (vget [] ((lined 40 .readmitted).ctx 0 c).queues k).length ≤ 16) ∧
    ((lined 40 .readmitted).runs.filter (fun x => x.2.st == .readmitted)).length ≤ 16 := by
  unfold RunsNumbered
  decide +kernel

theorem witness_queuesAge :
    let s := { lined 40 .running with now := 2 ^ 24 + 41 }
    (s.id.dev = 0 ∧ s.heldCtx 0 2 = false ∧ 2 ^ 24 < s.now - entry.since ∧ entry ∈ vget [] (s.ctx 0 2).queues 1) ∧
    (∀ c < 16, ∀ k < 3, (vget [] (s.ctx 0 c).queues (k + 1)).length +
      ((vget [] (s.ctx 0 c).queues k).filter (fun e => decide (2 ^ 24 < s.now - e.since))).length ≤ 16) ∧
    (let full := s.modCtx 0 2 (fun x => { x with queues := vset x.queues 2 (List.replicate 16 { entry with since := s.now }) })
     full.aged 0 = [⟨1, 2, entry⟩] ∧ 16 ≤ (vget [] (full.ctx 0 2).queues 2).length) := by
  decide +kernel

/-- An image with one data image, or with one tensor image of 16 F32 elements. -/
def dataImage : ItinImage := ⟨0, 0, 0, [⟨.hbm, 0, 0x2000, [1, 2]⟩], [], [], [], true⟩
def vectorImage : TensorImage := ⟨0x800, vector, [16], List.replicate 64 0, 2 ^ 21⟩

theorem flat_takes_all (m : Memory) (rs : List (Nat × Nat)) (h : ∀ r ∈ rs, r.1 + r.2 ≤ 0x40000000) : Takes (flat m) 0 0 rs :=
  (flat_writes m (tagged .pinfo 0 0 0 []) rfl rs h).2

theorem witness_imagesLoad :
    (dataImage.tensors = [] ∧ (flat []).memWf ∧ Takes (flat []) 0 0 [(0x2000, 2)]) ∧
    (hIsSketch vectorImage.handle = false ∧ vectorImage.bytes.length = vectorImage.dims.foldl (· * ·) 1 * widthOf (hTag vector) ∧
      vectorImage.logAt % 2 ^ 21 = 0 ∧ vectorImage.logAt < 2 ^ 48 ∧ ceilDiv (4096 + 4 * 64) (2 ^ 21) < 2 ^ 16) ∧
    ((∀ p ∈ (flat []).pagesAt 0 0 (hBase vector) 64, p.pins 100 = 0) ∧
      Takes (flat []) 0 0 [(0x800, 32), (hBase vector, 64), (2 ^ 21, 4096 + 64)] ∧
      [(0x800, 32), (hBase vector, 64), (2 ^ 21, 4096 + 64)].Pairwise (fun a b => a.1 + a.2 ≤ b.1 ∨ b.1 + b.2 ≤ a.1)) ∧
    (∃ p ∈ (sq.modCtx 0 0 (fun x => { x with pages := x.pages.map (fun p => { p with inFlight := 1 }) })).pagesAt 0 0 0x1000 64,
      p.tensor = false ∧ 0 < p.pins sq.now) := by
  refine ⟨⟨rfl, ?_, flat_takes_all _ _ (by decide)⟩, by decide +kernel, ⟨by decide +kernel, flat_takes_all _ _ (by decide +kernel),
    by decide +kernel⟩, by decide⟩
  unfold State.memWf
  decide +kernel

/-! ## Single steps. Expected values are worked out by hand from the rules named. -/

/-- The act in flight at the front. -/
def front (o : Out) : Option Instr := (after o).agenda.head?.map (·.act)
/-- s1 and s2 set. -/
def two (x y : Reg) : State := set sq (fun c => (c.ws 1 x).ws 2 y)
/-- The fault that an outcome adds to the itinerary. -/
def cause (o : Out) : Option Nat := ((after o).run 1).faults.head?.map (·.cause)

-- R89, R90
theorem test_add_wraps : (after (exec (.add 0 3 1 2) (two (-1) 2))).me.rs 3 = 1 := by decide
theorem test_sub : (after (exec (.sub 0 1 1 2) (two 5 7))).me.rs 1 = 0xFFFFFFFFFFFFFFFE := by decide
theorem test_shl_takes_six_bits : (after (exec (.shl 0 3 1 2) (two 3 65))).me.rs 3 = 6 := by decide
theorem test_sra_keeps_the_sign : (after (exec (.sra 0 3 1 2) (two (-8) 1))).me.rs 3 = 0xFFFFFFFFFFFFFFFC := by decide
theorem test_s0_discards : (after (exec (.xori 0 0 1 7) (two 1 0))).me.rs 0 = 0 := by decide
theorem test_andi_sign_extends : (after (exec (.andi 0 3 1 0x1F0) (two 0xFFFF 0))).me.rs 3 = 0xFFF0 := by decide
theorem test_addi_l : (after (exec (.addiL 0 3 1 0x3FFFFFFF) (two 0 0))).me.rs 3 = 0xFFFFFFFFFFFFFFFF := by decide
theorem test_div_overflow : front (exec (.divS 0 3 1 2) (two 0x8000000000000000 (-1))) =
    some (.leasedResult sq.cur.word (.sReg 3 0x8000000000000000)) := by decide
theorem test_rem_sign : front (exec (.rem 0 3 1 2) (two (-7) 2)) = some (.leasedResult sq.cur.word (.sReg 3 (-1))) := by decide
theorem test_divu_by_zero : front (exec (.divu 0 3 1 2) (two 9 0)) = some (.leasedResult sq.cur.word (.sReg 3 (-1))) := by decide
theorem test_remu_by_zero : front (exec (.remu 0 3 1 2) (two 9 0)) = some (.leasedResult sq.cur.word (.sReg 3 9)) := by decide
theorem test_mulhu : front (exec (.mulhu 0 3 1 2) (two (-1) (-1))) = some (.leasedResult sq.cur.word (.sReg 3 (-2))) := by decide
theorem test_mulh : front (exec (.mulh 0 3 1 2) (two (-1) (-1))) = some (.leasedResult sq.cur.word (.sReg 3 0)) := by decide

-- R91, R92
theorem test_cmp_lt_is_signed : (after (exec (.cmpLt 0 3 1 2) (two (-1) 0))).me.rp 3 = true := by decide
theorem test_cmp_ltu : (after (exec (.cmpLtu 0 3 1 2) (two (-1) 0))).me.rp 3 = false := by decide
theorem test_cmpi_geu_sign_extends : (after (exec (.cmpiGeu 0 5 1 0xFF) (two (-2) 0))).me.rp 5 = false := by decide
theorem test_pandn : (after (exec (.pandn 0 4 0 1) sq)).me.rp 4 = true := by decide
theorem test_p0_discards : (after (exec (.pnot 0 0 0) sq)).me.rp 0 = true := by decide

-- R93, R96, R99, R115
theorem test_brb_n : (after (exec (.brbN 0 1 4) sq)).me.sq.pc = 0x1010 := by decide
theorem test_loop : (after (exec (.loop 0 1 3 0xFFD) (two 4 0))).me.sq.pc = 0xFF4 ∧
    (after (exec (.loop 0 1 3 0xFFD) (two 4 0))).me.rs 1 = 3 ∧ (after (exec (.loop 0 1 3 0xFFD) (two 4 0))).me.rp 8 = true ∧
    (after (exec (.loop 0 1 4 0xFFD) (two 4 0))).me.rp 8 = false ∧
    (after (exec (.loop 0 1 3 0xFFD) (two 4 0))).me.rrb = 31 := by decide
theorem test_call : (after (exec (.call 5) (wpAt id))).me.rs 63 = 0x20004 ∧ (after (exec (.call 5) (wpAt id))).me.sq.pc = 0x20014 := by
  decide
theorem test_trap : (after (exec (.trap 0 0x41) (handled false))).me.tcause = 0x5041 ∧
    (after (exec (.trap 0 0x41) (handled false))).me.tepc = 0x20004 := by decide
theorem test_trap_timed : cause (exec (.trap 0 0x41) sq) = some 0x50 := by decide

-- R101, R104, R112, R272
theorem test_lds_misaligned : cause (exec (.ldsSp 0 7 5 3 0) (addressed sq 4)) = some 0x11 := by decide
theorem test_wrs_low_bytes : front (exec (.wrsSp 0 6 5 1 1) (set (addressed sq 16) (fun c => c.ws 6 0x12345678))) =
    some (.accessPerform (.store sq.cur.word .sp 18 [0x78, 0x56] [])) := by decide
theorem test_hget_quarter : (after (exec (.hget 0 31 7 1) (set wp (fun c => ({ c with h := vset c.h 31 sketch }).ws 1 3)))).me.rs 7 =
    0x0000000001000000 := by decide
theorem test_csrr_tcause : (after (exec (.csrr 0 7 0x022) (set sq (fun c => { c with tcause := 0x5041 })))).me.rs 7 = 0x5041 := by
  decide
theorem test_csrw_tvec : (after (exec (.csrw 0 1 0x020) (two 0x1003 0))).me.tvec = 0x1000 := by decide
theorem test_ccnt : (after (exec (.ccntCount 0 7) sq)).me.rs 7 = 100 ∧ (after (exec (.ccntLegTick 0 7) sq)).me.rs 7 = 64 := by decide
theorem test_kopen : (after (exec (.kopen 0 0 12 40) sq)).me.kraal = some ⟨12, 0, 0x10A0, 100⟩ := by decide
theorem test_windowRead : sq.windowRead 0 0 0x50 = 0 ∧ (sq.modCtx 0 0 (fun x => { x with status := 0x25 })).windowRead 0 0 0x40 = 0x25 := by
  decide
theorem test_barRead : (sq.modDev 0 (fun x => { x with rasmark := 9 })).barRead 0 0x4020 = 9 ∧ sq.barRead 0 0x4FFF = 0 := by decide
theorem test_reset_ends_debug : ({ sq.dev 0 with life := lifeDebug, ctxsel := 5 }.afterReset).life = lifeProduction ∧
    ({ sq.dev 0 with life := lifeDebug, ctxsel := 5 }.afterReset).ctxsel = 0 := by decide
theorem test_fuserd_program : cause (exec (.fuserd 0 7 0) wp) = some 0x55 := by decide

-- R68–R75
theorem test_idle : (after (exec (.idle 0 38) vx)).me.vx.ready = 38 := by decide
theorem test_tkchk_state : cause (exec (.tkchk 0 5 true false) sq) = some 0 := by decide
theorem test_mark : exec (.mark 0 64) sq = .next sq := by rfl
theorem test_end_ax : (after (exec (.endW 0) (set ax (fun c => { c with arb := 3 })))).me.arb = 0 ∧
    (after (exec (.endW 0) ax)).me.ax.st = .ended := by decide

-- R81, R225, R308, R314
theorem test_missed_departure_stops :
    ∀ e ∈ engines, (((after (exec (.legDeparture 1 1) (member id))).coreAt c0).stream e).st = .stopped := by decide +kernel
theorem test_leg_table_as_left : ((leg false id).modDev 0 (fun x => { x with hbm := [] })).legAddr c0 legSqw = 0x2000 := by
  decide +kernel
theorem test_region_command :
    let p (op : NmuOp) : Pend := ⟨705, phNmu, 0, 0, 0, 0, c0, .accessPerform (.descRead (tagged op 9 0 0 []))⟩
    let rg := (tagged .papplyAdd 9 0 0 []).region
    regionCommand 1 c0 rg (p .papplyAdd) = true ∧ regionCommand 1 c0 rg (p .skadd) = false := by decide

-- R61: a frame that the context does not hold is zeroed before its scan
theorem test_scan_zeroes :
    let s := (asking (.map execPage) id).modDev 0 (fun x => { x with hbm := [(5, 1), (0x30007, 1)], held := [(0, 0, 0x10000)] })
    ((after (exec .scan s)).dev 0).hbm = [(5, 1)] ∧
      ((after (exec .scan (s.modDev 0 (fun x => { x with held := [(0, 0x30000, 0x10000)] })))).dev 0).hbm = [(5, 1), (0x30007, 1)] := by
  decide +kernel

-- R185, R203: the port conflict of a pair whose tail is poisoned
theorem test_head_bank :
    let s := set vx (fun c => { c with bankWrites := [(5, 105)] })
    s.headBank (.vmov 0 0 11 1 none) (0#4 ++ 0x1C#7 ++ 11#6 ++ 1#6 ++ 0#9) = some (0x15, 0) ∧
    s.headBank (.vadd 0 0 11 1 7 none) (0#4 ++ 0x10#7 ++ 11#6 ++ 1#6 ++ 7#6 ++ 0#3) = none ∧
    s.headBank (.vadd 0 0 11 1 2 none) (0#4 ++ 0x10#7 ++ 11#6 ++ 1#6 ++ 2#6 ++ 0#3) = some (0x15, 0) := by decide

-- R155–R157, R161, R165, R170
theorem test_asra : (after (exec (.asra 0 3 1 2) (operands (2 ^ 64 - 16) 2 0))).me.ra 3 = 0xFFFFFFFFFFFFFFFC := by decide
theorem test_naddi : (after (exec (.naddi 0 5 3 0x1FFF) (operands 0 0 7))).me.rn 5 = 6 := by decide
theorem test_aswz : (after (exec (.aswz 0 9 1 0) (operands 0x1040 0 0))).me.ra 9 = 67 := by decide
theorem test_copy_misaligned : cause (exec (.cpSpSp 0 1 2 3) (operands 0 0 65)) = some 0x11 := by decide
theorem test_drain_of_nothing : cause (exec (.odrSp 0 3 2 3 false 0) (operands 0 0 1)) = some 0x07 := by decide
theorem test_dispatch_too_small : cause (exec (.xldHost 0 1 2 3 false) (operands 0 0 0)) = some 0x16 := by decide

-- R188, R191, R195: lanes 0 and 1 of the tile in flight
/-- The low two words of the tile that a result in flight writes. -/
def lanes2 (o : Out) : Option (BitVec 64) :=
  match front o with
  | some (.leasedResult _ (.vx w)) => w.tiles.head?.map (fun x => x.2.data.setWidth 64)
  | _ => none
/-- t1 and t2 hold two words of a format. -/
def pair (tag : Tag) (x y : BitVec 64) : State :=
  set vx (fun c => { c with t := vset (vset c.t 1 ⟨x.setWidth 32768, tag, false⟩) 2 ⟨y.setWidth 32768, tag, false⟩ })

theorem test_vadd : lanes2 (exec (.vadd 0 0 5 1 2 none) (pair .f32 0x3F800000BF800000 0x400000003F800000)) =
    some 0x4040000000000000 := by decide +kernel
theorem test_viadd_sat : lanes2 (exec (.viadd 0 0 5 1 2 (some { plain with x := 1 })) (pair .i32 0x800000007FFFFFFF 0xFFFFFFFF00000001)) =
    some 0x800000007FFFFFFF := by decide +kernel
theorem test_vexp2 : lanes2 (exec (.vexp2 0 0 5 1 none) (pair .f32 0x40400000BF800000 0)) = some 0x410000003F000000 := by
  decide +kernel
theorem test_vmax_zeros : lanes2 (exec (.vmax 0 0 5 1 2 none) (pair .f32 0x800000003F800000 0x0000000040000000)) =
    some 0x0000000040000000 := by decide +kernel
theorem test_vmov_wrong_tag : cause (exec (.vmov 0 0 5 1 none) (pair .i32 0 0)) = some 0x21 := by decide
theorem test_vshape : (after (exec (.vshape 0 12) vx)).me.rl = 12 := by decide

-- R213, R214, R216, R220, R221
theorem test_mcfg : (after (exec (.mcfg 0 true 1 3) mx)).me.mcfg = 43 := by decide
theorem test_mclr_port : cause (exec (.mclr 0 true) held) = some 0x15 := by decide
theorem test_mdrain_ready : (vget [] (after (exec (.mdrain 0 false 2 false 0) mx)).me.o 2).map (fun e => e.ready) = [108] := by decide +kernel
theorem test_msparse_poison :
    cause (exec (.msparse 0 false 1 9) (set mx (fun c => { c with q := vset c.q 1 [⟨⟨0, .u8, true⟩, 100, wordOf .ax false, 0, []⟩] }))) =
      some 0x42 := by decide +kernel
theorem test_mdrain_group : cause (exec (.mdrain 0 false 0 false 8) (set mx (fun c => { c with mcfg := 3 }))) = some 0x22 := by decide
theorem test_mscl_empty : cause (exec (.msclAct 0 7) mx) = some 0x07 := by decide

-- R267–R269
theorem test_recv_missing : cause (exec (.recv 0 0 2 15) (set ax (fun c => { c with n := vset c.n 2 256 }))) = some 0x06 := by decide
theorem test_contribution_of_another_leg :
    contribution ((contributed 2).coreAt c0) { sumJob with word := { sumJob.word with leg := 1 } } 0 1 = none := by decide +kernel
theorem test_relay_by_the_same_end :
    (after (exec (.flitArrival 0 17 (.arrive ax.cur.word 1 [(0, 17)] (.send [c0] 0 [] [] 0))) (showing 0 none))).agenda.head?.map
      (fun p => (p.at', p.act)) = some (164, .flitArrival 0 17 (.relay ax.cur.word 1 [(0, 17)] (.send [c0] 0 [] [] 0))) := by
  decide +kernel
theorem test_fence_of_a_retired_itinerary :
    let f : Fence := ⟨0, 99, 2, 2, 0, some [(1, (c1, .dispatch 3))]⟩
    let s := (set (standing .retired) (fun c => { c with fences := [f] }))
    (s.coreAt c0).fences = [f] ∧ ((s.performed 1 (c1, .dispatch 3)).coreAt c0).fences = [] := by decide +kernel
theorem test_send_to_nobody : cause (exec (.send 0 1 6 2 0) ax) = some 0x57 := by decide

end Sys2Proof.Tests
end

section
/-! Turns of the group that run no decoded word (R2, R51, R55, R57, R58, R94): what an advance of the count leaves, which
step a state takes, and what a fault of a head records. -/

namespace Sys2Proof.Machine

/-! ## The advance of the count (R57, R324) -/

/-- A table with every entry changed reads the changed entry, or what it read before where none is listed. -/
theorem look_map_cases {κ α : Type} [DecidableEq κ] (d : α) (f : κ → α → α) (k : κ) (t : Assoc κ α) :
    look d k (t.map (fun x => (x.1, f x.1 x.2))) = f k (look d k t) ∨
      look d k (t.map (fun x => (x.1, f x.1 x.2))) = look d k t := by
  induction t with
  | nil => exact .inr rfl
  | cons x r ih =>
    by_cases h : x.1 = k
    · subst h; simp [look]
    · simpa [look, h] using ih

/-- The next count is a later one. -/
theorem State.now_lt_nextCount (s : State) : s.now < s.nextCount := by
  unfold State.nextCount
  extract_lets dues edges pulses all
  have later : ∀ t ∈ all, s.now < t := fun t ht => by simpa using (List.mem_filter.mp ht).2
  clear_value all
  cases all with
  | nil => exact Nat.lt_succ_self _
  | cons t r =>
    exact List.foldlRecOn (motive := fun m => s.now < m) r min (later t (by simp))
      (fun m hm a ha => Nat.lt_min.mpr ⟨hm, later a (by simp [ha])⟩)

@[simp] theorem State.advanced_now (s : State) : s.advanced.now = s.nextCount := rfl

@[simp] theorem State.advanced_agenda (s : State) : s.advanced.agenda = s.agenda := rfl

/-- The accounting of a core leaves all but its counters and what they were as the count ended (R111, R324). -/
theorem State.accountCore_frame (s : State) (t : Nat) (id : CoreId) :
    { s.accountCore t id with counters := (s.coreAt id).counters, before := (s.coreAt id).before } = s.coreAt id := rfl

/-- Where the count advances a core changes by its accounting alone. -/
theorem State.coreAt_advanced (s : State) (id : CoreId) :
    { s.advanced.coreAt id with counters := (s.coreAt id).counters, before := (s.coreAt id).before } = s.coreAt id := by
  rcases look_map_cases Core.fresh (fun k _ => s.accountCore s.nextCount k) id s.cores with h | h
  · have accounted : s.advanced.coreAt id = s.accountCore s.nextCount id := h
    rw [accounted, State.accountCore_frame]
  · have unlisted : s.advanced.coreAt id = s.coreAt id := h
    rw [unlisted]

/-- Where the count advances a device keeps its memory. -/
theorem State.hbm_advanced (s : State) (d : Nat) : (s.advanced.dev d).hbm = (s.dev d).hbm := by
  rcases look_map_cases Device.reset (s.accountDevice s.nextCount) d s.devs with h | h
  · exact (congrArg Device.hbm h).trans rfl
  · exact congrArg Device.hbm h

theorem State.sameBytes_advanced (s : State) : s.sameBytes s.advanced :=
  ⟨fun id x => ⟨congrArg (fun c => readByte c.sp x) (s.coreAt_advanced id),
      congrArg (fun c => readByte c.loft x) (s.coreAt_advanced id)⟩,
    fun d x => by rw [s.hbm_advanced d], fun _ _ _ => rfl⟩

/-! ## Which step a state takes (log 2) -/

/-- A due effect performs that comes before the words of its count, or where no head is due. -/
theorem step_of_due_effect {s : State} {p : Pend} {rest : List Pend} (ha : s.agenda = p :: rest) (hp : p.at' ≤ s.now)
    (h : p.phase < phIssue ∨ s.firstDue = none) : step s = exec p.act (s.taking p rest) := by
  unfold step turn stepEffect
  rcases h with h | h <;> simp [ha, hp, h]

/-- A due head issues that no effect of its count precedes. -/
theorem step_of_due_head {s : State} {id : CoreId} {e : Engine}
    (ha : ∀ p ∈ s.agenda.head?, s.now < p.at' ∨ phIssue ≤ p.phase) (h : s.firstDue = some (id, e)) :
    step s = stepIssue s id e := by
  unfold step turn
  rw [h]
  split
  · rfl
  · rename_i p rest hs
    have later : ¬ (p.at' ≤ s.now ∧ p.phase < phIssue) := by
      have := ha p (by simp [hs])
      omega
    rw [if_neg later]

/-- Where nothing is due the count advances. -/
theorem step_of_nothing_due {s : State} (ha : ∀ p ∈ s.agenda.head?, s.now < p.at') (h : s.firstDue = none) :
    step s = .next s.advanced := by
  unfold step turn
  rw [h]
  split
  · rfl
  · rename_i p rest hs
    have later : ¬ p.at' ≤ s.now := Nat.not_le.mpr (ha p (by simp [hs]))
    simp [later]

/-! ## losslessSoon: an effect in flight at most -/

@[simp] theorem State.losslessSoon_devs (s : State) (d : Nat) : (s.losslessSoon d).devs = s.devs := by
  unfold State.losslessSoon
  split <;> rfl

@[simp] theorem State.losslessSoon_cores (s : State) (d : Nat) : (s.losslessSoon d).cores = s.cores := by
  unfold State.losslessSoon
  split <;> rfl

@[simp] theorem State.losslessSoon_now (s : State) (d : Nat) : (s.losslessSoon d).now = s.now := by
  unfold State.losslessSoon
  split <;> rfl

@[simp] theorem State.losslessSoon_groupHeld (s : State) (d : Nat) : (s.losslessSoon d).groupHeld = s.groupHeld := by
  unfold State.losslessSoon
  split <;> rfl

@[simp] theorem State.losslessSoon_groupShadow (s : State) (d : Nat) : (s.losslessSoon d).groupShadow = s.groupShadow := by
  unfold State.losslessSoon
  split <;> rfl

@[simp] theorem State.losslessSoon_host (s : State) (d : Nat) : (s.losslessSoon d).host = s.host := by
  unfold State.losslessSoon
  split <;> rfl

@[simp] theorem State.losslessSoon_pool (s : State) (d : Nat) : (s.losslessSoon d).pool = s.pool := by
  unfold State.losslessSoon
  split <;> rfl

@[simp] theorem State.losslessSoon_runs (s : State) (d : Nat) : (s.losslessSoon d).runs = s.runs := by
  unfold State.losslessSoon
  split <;> rfl

/-! ## What a fault records (R79, R85, R307) -/

@[simp] theorem State.spoor_runs (s : State) (d : Nat) (x : BitVec 256) : (s.spoor d x).runs = s.runs := by
  unfold State.spoor
  split
  · rfl
  · simp

@[simp] theorem State.spoorCoreOn_runs (s : State) (d : Nat) (id : CoreId) (e : Engine) (k n : Nat) (x : BitVec 128) :
    (s.spoorCoreOn d id e k n x).runs = s.runs := State.spoor_runs ..

/-- A fault is noted last among the faults of its itinerary. -/
theorem State.run_addFault (s : State) (r : Nat) (f : FaultRec) :
    (s.addFault r f).run r = { s.run r with faults := (s.run r).faults ++ [f] } := by
  rw [State.addFault, State.run_congr (State.spoorCoreOn_runs ..), State.run_modRun, if_pos rfl]

@[simp] theorem State.sendHalt_runs (s : State) (r t : Nat) (sc : HaltScope) (d c : Nat) :
    (s.sendHalt r t sc d c).runs = s.runs :=
  List.foldlRecOn (motive := fun u : State => u.runs = s.runs) (s.run r).members _ rfl (fun _ h _ _ => h)

/-- A halt of an itinerary notes no fault. -/
theorem State.faults_haltRun (s : State) (r t : Nat) (sc : HaltScope) (d c k : Nat) :
    ((s.haltRun r t sc d c).run k).faults = (s.run k).faults := by
  unfold State.haltRun
  extract_lets x
  split
  · rw [State.run_congr (State.sendHalt_runs ..), State.haltFrom, State.run_modRun]
    split
    · subst k; rfl
    · rfl
  · rfl

/-- A halt notes no fault, whatever its scope. -/
theorem State.faults_beginHalt (s : State) (r t : Nat) (sc : HaltScope) (d c k : Nat) :
    ((s.beginHalt r t sc d c).run k).faults = (s.run k).faults := by
  cases sc with
  | itinerary => exact s.faults_haltRun ..
  | group =>
    exact List.foldlRecOn (motive := fun u : State => (u.run k).faults = (s.run k).faults) (s.runs.map (·.1)) _ rfl
      (fun u h _ _ => (u.faults_haltRun ..).trans h)

theorem State.faults_ite {p : Prop} [Decidable p] {a b : State} {k : Nat} {l : List FaultRec} (ha : (a.run k).faults = l)
    (hb : (b.run k).faults = l) : ((if p then a else b).run k).faults = l := by
  split
  · exact ha
  · exact hb

/-- The record of a fault that a device raises now, charged to a word (R307). -/
def State.recordOf (s : State) (dev : Nat) (eng : Engine) (w : WordRef) (ofWord : Bool) (cause : Nat) (detail : BitVec 256) :
    FaultRec :=
  { t := s.now, dev := dev, eng := eng, member := (s.coreAt w.id).member, lcore := w.id.core, cause := cause,
    detail := detail, scope := scopeNo (scopeOf cause), word := w, ofWord := ofWord }

/-- A fault charged to a word of a live itinerary that its core still runs is noted last among the faults of the itinerary. -/
theorem State.faults_raiseOn {s : State} {w : WordRef} (dev : Nat) (eng : Engine) (ofWord : Bool) (cause : Nat)
    (detail : BitVec 256) (hm : s.mine w = true) (hl : (s.run w.run).live = true) :
    ((s.raiseOn dev eng w ofWord cause detail).run w.run).faults =
      (s.run w.run).faults ++ [s.recordOf dev eng w ofWord cause detail] := by
  have noted (f : Core → Core) (t : State)
      (h : (t.run w.run).faults = ((((s.cancelWord w).modCore w.id f).addFault w.run
        (s.recordOf dev eng w ofWord cause detail)).run w.run).faults) :
      (t.run w.run).faults = (s.run w.run).faults ++ [s.recordOf dev eng w ofWord cause detail] := by
    rw [h, State.run_addFault]; rfl
  have mine : (s.cancelWord w).mine w = true := hm
  have live : ((s.cancelWord w).run w.run).live = true := hl
  unfold State.raiseOn
  simp only [mine, live, Bool.and_self, Bool.not_true, Bool.false_eq_true, if_false]
  cases (s.coreAt w.id).kraal with
  | none => exact noted _ _ (State.faults_beginHalt ..)
  | some k => exact noted _ _ (State.faults_ite rfl (State.faults_beginHalt ..))

/-! ## A head that does not issue (R51, R55, R94) -/

/-- The state in which the head of a stream faults at an address. -/
def State.naming (s : State) (w : WordRef) (pc : Nat) : State := { s with cur := { word := w, pc := pc, bits := 0, bar := none } }

/-- A head that no page of its kind maps raises fetch. -/
theorem State.stepIssue_unmapped {s : State} {id : CoreId} {e : Engine} {pc : Nat}
    (hpc : (wrapHead ((s.coreAt id).stream e).reps ((s.coreAt id).stream e).pc).1 = pc)
    (hw : s.wordAt id.dev (s.ctxNo id) ((s.coreAt id).pageKind e) pc = none) :
    ∃ shift, stepIssue s id e = .next ((s.naming (s.headRef id e shift) pc).fault 0x19 (addrDetail .code pc)) := by
  subst hpc
  refine ⟨((s.coreAt id).stream e).shift, ?_⟩
  simp only [stepIssue, State.issueHead, State.wordsAt, hw, Option.map_none]
  rfl

/-- An unpoisoned head that is a tail or no aligned word raises branch target. -/
theorem State.stepIssue_tail {s : State} {id : CoreId} {e : Engine} {pc : Nat} {w : IWord}
    (hpc : (wrapHead ((s.coreAt id).stream e).reps ((s.coreAt id).stream e).pc).1 = pc)
    (hw : s.wordAt id.dev (s.ctxNo id) ((s.coreAt id).pageKind e) pc = some w) (hp : s.fetchPoison id e pc = none)
    (ht : isTail w = true ∨ pc % 4 ≠ 0) :
    ∃ shift, stepIssue s id e = .next ((s.naming (s.headRef id e shift) pc).fault 0x53 (addrDetail .code pc)) := by
  subst hpc
  have tail : (isTail w || (wrapHead ((s.coreAt id).stream e).reps ((s.coreAt id).stream e).pc).1 % 4 != 0) = true := by
    simpa using ht
  refine ⟨(((s.coreAt id).stream e).due (idleOf w).toNat).2.1, ?_⟩
  simp only [stepIssue, State.issueHead, State.wordsAt, hw, Option.map_some, List.headD_cons, hp, tail, if_true]
  rfl

/-- A head of a live itinerary that faults leaves every byte, and its record names the code, the count and DETAIL. -/
theorem State.fault_naming {s : State} {id : CoreId} {e : Engine} {r : Nat} (hr : (s.coreAt id).run = some r)
    (hl : (s.run r).live = true) (shift pc cause : Nat) (detail : BitVec 256) :
    ∃ f, (((s.naming (s.headRef id e shift) pc).fault cause detail).run r).faults = (s.run r).faults ++ [f] ∧
      f.cause = cause ∧ f.t = s.now ∧ f.detail = detail ∧
      s.sameBytes ((s.naming (s.headRef id e shift) pc).fault cause detail) := by
  have run : (s.headRef id e shift).run = r := by simp [State.headRef, hr]
  have mine : (s.naming (s.headRef id e shift) pc).mine (s.headRef id e shift) = true := by
    rw [State.mine, run]; exact beq_iff_eq.mpr hr
  have live : ((s.naming (s.headRef id e shift) pc).run (s.headRef id e shift).run).live = true := by
    rw [run]; exact hl
  have noted := State.faults_raiseOn id.dev e true cause detail mine live
  rw [run] at noted
  exact ⟨_, noted, rfl, rfl, rfl, (State.Calm.fault (s.naming (s.headRef id e shift) pc) cause detail).sameBytes⟩

/-! ## The statement -/

theorem stepTakesEffectsInOrder : Claims.stepTakesEffectsInOrder := by
  refine ⟨fun s p rest ha hp h => ⟨step_of_due_effect ha hp h, rfl, .refl s⟩, fun s ha h => ?_⟩
  exact ⟨s.advanced, step_of_nothing_due ha h, s.now_lt_nextCount, s.sameBytes_advanced, rfl,
    fun id => ⟨(congrArg Core.s (s.coreAt_advanced id) :), (congrArg Core.p (s.coreAt_advanced id) :)⟩⟩

theorem unmappedHeadRaisesFetch : Claims.unmappedHeadRaisesFetch := by
  intro s id e r ha hd hr hl hw
  obtain ⟨shift, hs⟩ := State.stepIssue_unmapped rfl hw
  obtain ⟨f, noted, cause, at', detail, bytes⟩ := State.fault_naming (e := e) hr hl shift _ 0x19 _
  exact ⟨_, f, (step_of_due_head ha hd).trans hs, noted, cause, at', detail, bytes⟩

theorem tailHeadRaisesBranchTarget : Claims.tailHeadRaisesBranchTarget := by
  intro s id e r pc w ha hd hr hl hpc hw ht hp
  obtain ⟨shift, hs⟩ := State.stepIssue_tail hpc hw hp ht
  obtain ⟨f, noted, cause, at', detail, bytes⟩ := State.fault_naming (e := e) hr hl shift pc 0x53 _
  exact ⟨_, f, (step_of_due_head ha hd).trans hs, noted, cause, at', detail, bytes⟩

/-- Settles O4: a step is the first due effect, the first due head or the advance of the count; an advance changes a core by
its accounting alone, and a head that faults is noted last in its itinerary and changes no byte. -/
theorem stepsThatRunNoInstruction : Obligations.StepsThatRunNoInstruction :=
  ⟨stepTakesEffectsInOrder, unmappedHeadRaisesFetch, tailHeadRaisesBranchTarget⟩

end Sys2Proof.Machine
end

section
/-! CSR words, link status, and what writes of shared and control registers do (R4, R111, R112, R272, R308, R318, R322,
R327): one equation per word for what it runs, one law per part of a control write, and what every control write keeps. -/

namespace Sys2Proof.Machine

/-! ## Tables and the executing core -/

theorem put_put {κ α : Type} [DecidableEq κ] (k : κ) (v w : α) (t : Assoc κ α) : put k w (put k v t) = put k w t := by
  induction t with
  | nil => simp [put]
  | cons x r ih => by_cases h : x.1 = k <;> simp [put, h, ih]

/-- Two changes of one core are one. -/
theorem State.modCore_modCore (s : State) (id : CoreId) (f g : Core → Core) :
    (s.modCore id f).modCore id g = s.modCore id (fun c => g (f c)) := by
  simp only [State.modCore, State.coreAt_setCore, if_true]
  simp only [State.setCore, put_put]

theorem State.sameBytes_modMe (s : State) {f : Core → Core} (h : (f s.me).sp = s.me.sp ∧ (f s.me).loft = s.me.loft) :
    s.sameBytes (s.modMe f) := .modCore s s.id h

/-- A change of the executing core that writes s[d] and nothing else. -/
theorem State.wroteS_modMe (s : State) (d : BitVec 6) (v : Reg) {f : Core → Core} (h : f s.me = s.me.ws d.toNat v) :
    s.wroteS (s.modMe f) d v := by
  refine ⟨fun k => ?_, ?_, .modMe s f, s.sameBytes_modMe (by simp [h])⟩
  · rw [State.me_modMe, h, Core.rs_ws _ _ d.isLt k.isLt]
    simp [BitVec.toNat_inj, ← BitVec.toNat_inj (y := 0#6)]
  · rw [State.me_modMe, h, Core.ws_frame]

theorem Core.ws_o (c : Core) (i : Nat) (v : Reg) : (c.ws i v).o = c.o := (congrArg Core.o (c.ws_frame i v) :)

/-! ## csrr and lstat (R111, R272) -/

/-- A csrr of another register than FLAGS_VX and FLAGS_MX notes nothing. -/
theorem Core.readsFlags_of_ne (c : Core) (now slot : Nat) {idx : Nat} (hv : idx ≠ 0x010) (hm : idx ≠ 0x011) :
    c.readsFlags now slot idx = c := by
  unfold Core.readsFlags
  split
  · exact absurd rfl hv
  · exact absurd rfl hm
  · rfl

section Words

variable {s : State} {d : BitVec 6} (g : BitVec 4) (he : s.cur.early = false) (hd : s.sFree d.toNat = none)
include he hd

/-- csrr of the program view writes s[d] and notes the flags that it has read. -/
theorem exec_csrr_program {x : BitVec 15} (hx : x.toNat < 0x4000) :
    exec (.csrr g d x) s = .next (s.modMe (fun c =>
      (c.ws d.toNat (s.programRead x.toNat)).readsFlags s.now (sSlot c d.toNat) x.toNat)) := by
  have program : decide (0x4000 ≤ x.toNat) = false := by simpa using hx
  have slot (c : Core) (v : Reg) : sSlot (c.ws d.toNat v) d.toNat = sSlot c d.toNat := sSlot_congr (by simp) _
  calc exec (.csrr g d x) s = .next ((s.writesS d (s.programRead x.toNat)).modMe (fun c =>
          c.readsFlags s.now (sSlot c d.toNat) x.toNat)) := by
        simp only [exec, execCsrr]
        rw [State.word_next he (by simp [hd, program])]
        simp [program]
    _ = _ := by
        rw [State.writesS, State.modMe, State.modMe, State.modCore_id, State.modCore_modCore]
        simp only [slot, State.modMe]

/-- csrr of another register than FLAGS_VX and FLAGS_MX writes s[d] and nothing else. -/
theorem csrr_wroteS {x : BitVec 15} (hx : x.toNat < 0x4000) (hv : x.toNat ≠ 0x010) (hm : x.toNat ≠ 0x011) {v : Reg}
    (h : s.programRead x.toNat = v) : ∃ t, exec (.csrr g d x) s = .next t ∧ s.wroteS t d v :=
  ⟨_, exec_csrr_program g he hd hx, s.wroteS_modMe d v (by rw [h, Core.readsFlags_of_ne _ _ _ hv hm])⟩

/-- csrr of the flags of an engine writes s[d], and notes the flags that are those of pushes due now (R203; log 129). -/
theorem csrr_flags {x : BitVec 15} (hx : x.toNat < 0x4000) {v : Reg} {e : Engine} (h : s.programRead x.toNat = v)
    (hr : ∀ (c : Core) (now slot : Nat),
      c.readsFlags now slot x.toNat = { c with flagRead := some (slot, c.flagsDue now e) }) :
    ∃ t, exec (.csrr g d x) s = .next t ∧
      (∀ k : BitVec 6, t.me.rs k.toNat = if k = d ∧ d ≠ 0 then v else s.me.rs k.toNat) ∧
      t.me.flagRead = some (sSlot s.me d.toNat, s.me.flagsDue s.now e) ∧
      { t.me with s := s.me.s, flagRead := s.me.flagRead } = s.me ∧ s.onlyMe t ∧ s.sameBytes t := by
  obtain ⟨reads, frame, -, -⟩ := s.wroteS_modMe d v (f := fun c => c.ws d.toNat v) rfl
  rw [State.me_modMe] at frame
  refine ⟨_, exec_csrr_program g he hd hx, fun k => ?_, ?_, ?_, .modMe s _, s.sameBytes_modMe ?_⟩
  · rw [← reads k, State.me_modMe, State.me_modMe, hr, h]; rfl
  · rw [State.me_modMe, hr]
    simp only [Core.flagsDue, Core.ws_o]
  · rw [State.me_modMe, hr, h]
    exact (congrArg (fun c : Core => { c with flagRead := s.me.flagRead }) frame :)
  · rw [hr]
    exact ⟨Core.ws_sp .., Core.ws_loft ..⟩

/-- lstat writes s[d]. -/
theorem lstat_wroteS {x : BitVec 15} {v : Reg} (h : s.linkStatus x.toNat = v) :
    ∃ t, exec (.lstat g d x) s = .next t ∧ s.wroteS t d v := by
  refine ⟨s.modMe (fun c => c.ws d.toNat v), ?_, s.wroteS_modMe d v rfl⟩
  simp only [exec, execLstat]
  rw [State.word_next he (by simp [hd]), h, State.writesS]

/-- csrr of the control view at control level writes s[d]; its free value is drawn (log 34). -/
theorem exec_csrr_control {x : BitVec 15} (hx : 0x4000 ≤ x.toNat) (hc : (s.ctxOf s.id).control = true) :
    exec (.csrr g d x) s = .next (s.writesS d (s.controlRead s.id x.toNat)).drawn := by
  simp only [exec, execCsrr]
  rw [State.word_next he (by simp [hd, hx, State.privileged, hc])]
  simp [hx]

end Words

/-- The status of a link as the previous count left it. -/
theorem State.linkStatus_link (s : State) {i : Nat} (h : i < 18) :
    s.linkStatus i = linkWord (vget Link.reset (s.pastDev s.id.dev).links i) := by
  simp [State.linkStatus, h]

/-- The route word of another member that a route reaches. -/
theorem State.linkStatus_route {s : State} {m : Nat} {y : Nat × Nat} {r : Route} (hm : m < 256) (hme : m ≠ s.me.member)
    (hy : (s.runOf s.id).members[m]? = some y) (hr : s.route? s.id.dev y.1 = some r) :
    s.linkStatus (0x100 + m) = 1#1 ++ 0#43 ++ BitVec.ofNat 4 r.hops.length ++ BitVec.ofNat 16 r.h := by
  have notLink : ¬ 0x100 + m < 0x12 := by omega
  have route : 0x100 + m < 0x200 := by omega
  have word : s.linkStatus (0x100 + m) = s.routeWord m := by
    simp only [State.linkStatus, if_neg notLink, if_pos route, Nat.add_sub_cancel_left]
  rw [word, State.routeWord, hy]
  simp [hme, hr]

theorem statusReads : Claims.statusReads := by
  intro g d x s he hd
  have read (x : BitVec 15) (hx : x.toNat < 0x4000) (hv : x.toNat ≠ 0x010) (hm : x.toNat ≠ 0x011) :
      ∃ t, exec (.csrr g d x) s = .next t ∧ s.wroteS t d (s.programRead x.toNat) := csrr_wroteS g he hd hx hv hm rfl
  refine ⟨read 0x000 (by decide) (by decide) (by decide), read 0x002 (by decide) (by decide) (by decide), ?_,
    read 0x020 (by decide) (by decide) (by decide), read 0x021 (by decide) (by decide) (by decide),
    read 0x022 (by decide) (by decide) (by decide), read 0x030 (by decide) (by decide) (by decide),
    read 0x031 (by decide) (by decide) (by decide), fun hx hv hm => ?_,
    fun hx => lstat_wroteS g he hd (s.linkStatus_link hx), fun m y hx hm hme hy r hr => ?_,
    lstat_wroteS g he hd (x := 0x200) rfl, lstat_wroteS g he hd (x := 0x201) rfl⟩
  · simp only [List.mem_cons, List.not_mem_nil, or_false, forall_eq_or_imp, forall_eq]
    exact ⟨csrr_flags g he hd (by decide) rfl (fun _ _ _ => rfl), csrr_flags g he hd (by decide) rfl (fun _ _ _ => rfl)⟩
  · obtain ⟨t, ht, wrote⟩ := read x hx (fun h => hv (BitVec.eq_of_toNat_eq h)) (fun h => hm (BitVec.eq_of_toNat_eq h))
    exact ⟨t, _, ht, wrote⟩
  · exact lstat_wroteS g he hd (by rw [hx]; exact State.linkStatus_route hm hme hy hr)

/-! ## csrw (R111, R112) -/

/-- A bit stands where it stood and no 1 is written (R112). -/
theorem getLsbD_cleared {w : Nat} (old : BitVec w) (v : Reg) {i : Nat} (hi : i < w) :
    (cleared old v).getLsbD i = (old.getLsbD i && !v.getLsbD i) := by
  simp [cleared, hi]

/-- An address with its low two bits zero, as TVEC holds it. -/
theorem getLsbD_and_not_three (v : Reg) (i : Nat) : (v &&& ~~~3#64).getLsbD i = (decide (2 ≤ i) && v.getLsbD i) := by
  have low : (3#64).getLsbD i = (decide (i < 64) && decide (i < 2)) := by
    rw [BitVec.getLsbD_ofNat, show 3 = 2 ^ 2 - 1 from rfl, Nat.testBit_two_pow_sub_one]
  rw [BitVec.getLsbD_and, BitVec.getLsbD_not, low]
  by_cases hi : i < 64
  · by_cases h2 : i < 2
    · simp [h2, Nat.not_le.mpr h2]
    · simp [hi, h2, Nat.not_lt.mp h2]
  · simp [BitVec.getLsbD_of_ge v i (Nat.not_lt.mp hi)]

section Writes

variable {s : State} {a : BitVec 6} (g : BitVec 4) (he : s.cur.early = false) (ha : s.sFree a.toNat = none)
include he ha

/-- csrw of a register that its core alone reaches writes it at once. -/
theorem exec_csrw_own {x : BitVec 15} (hx : x.toNat < 0x030) :
    exec (.csrw g a x) s = .next (s.modMe (fun c => c.programWrite x.toNat (s.me.rs a.toNat))) := by
  have program : ¬ 0x4000 ≤ x.toNat := by omega
  simp only [exec, execCsrw]
  rw [State.word_next he (by simp [ha, program])]
  simp [ownCsr, hx]

/-- csrw of a shared register puts the write in flight for its own count. -/
theorem exec_csrw_shared {x : BitVec 15} (hx : 0x030 ≤ x.toNat)
    (hp : 0x4000 ≤ x.toNat → (s.ctxOf s.id).control = true) :
    exec (.csrw g a x) s = .next (s.sched s.now phResult (.leasedResult s.cur.word (.csr x.toNat (s.me.rs a.toNat)))) := by
  have checks : firstFault [s.sFree a.toNat, if 0x4000 ≤ x.toNat then s.privileged else none] = none := by
    by_cases h : 0x4000 ≤ x.toNat
    · simp [ha, h, State.privileged, hp h]
    · simp [ha, h]
  have shared : ¬ x.toNat < 0x030 := Nat.not_lt.mpr hx
  simp only [exec, execCsrw]
  rw [State.word_next he checks]
  simp [ownCsr, shared]

end Writes

theorem csrWrites : Claims.csrWrites := by
  intro g d a x s he ha
  refine ⟨⟨_, exec_csrw_own g he ha (by decide), fun i hi => ?_, ?_, .modMe s _, s.sameBytes_modMe ⟨rfl, rfl⟩⟩,
    ⟨_, exec_csrw_own g he ha (by decide), fun i => ?_, ?_, .modMe s _, s.sameBytes_modMe ⟨rfl, rfl⟩⟩,
    ⟨_, exec_csrw_own g he ha (by decide), ?_, ?_, .modMe s _, s.sameBytes_modMe ⟨rfl, rfl⟩⟩, fun hx => ?_,
    fun hd hx hc => ?_⟩
  · rw [State.me_modMe]
    exact getLsbD_cleared _ _ hi
  · rw [State.me_modMe]; rfl
  · rw [State.me_modMe]
    exact getLsbD_and_not_three _ i
  · rw [State.me_modMe]; rfl
  · rw [State.me_modMe]; rfl
  · rw [State.me_modMe]; rfl
  · have shared : 0x030 ≤ x.toNat ∧ (0x4000 ≤ x.toNat → (s.ctxOf s.id).control = true) := by
      rcases hx with rfl | rfl | ⟨hx, hc⟩
      · simp
      · simp
      · exact ⟨by omega, fun _ => hc⟩
    obtain ⟨shared, level⟩ := shared
    exact ⟨_, exec_csrw_shared g he ha shared level, rfl, .refl s, rfl⟩
  · obtain ⟨reads, frame, -, bytes⟩ := s.wroteS_modMe d (s.controlRead s.id x.toNat) (f := fun c => c.ws d.toNat _) rfl
    exact ⟨_, exec_csrr_control g he hd hx hc, reads, frame, bytes⟩

/-! ## Shared registers (R111, R112) -/

theorem State.onlyDev_modDev (s : State) (d : Nat) (f : Device → Device) : s.onlyDev (s.modDev d f) d :=
  ⟨rfl, fun k hk => by simp [hk]⟩

/-- A context behind a change of a context of its device. -/
theorem State.ctx_modCtx (s : State) (d : Nat) {c : Nat} (f : Ctx → Ctx) (k : Nat) (hc : c < 16) :
    (s.modCtx d c f).ctx d k = if k = c then f (s.ctx d c) else s.ctx d k := by
  simp [State.ctx, State.modCtx, vget_vset, hc]

/-- The write of a shared register performs where its core still runs the itinerary of the word. -/
theorem exec_csr_result {s : State} {w : WordRef} (h : s.mine w = true) (x : Nat) (v : Reg) :
    exec (.leasedResult w (.csr x v)) s = .next (s.sharedWrite w.id x v) := by
  simp only [exec, execLeasedResult, h, if_true, State.result]

/-- An index of the control view is written as the host writes it. -/
theorem State.sharedWrite_control (s : State) (id : CoreId) {x : Nat} (v : Reg) (h : 0x4000 ≤ x) :
    s.sharedWrite id x v = s.controlWrite id.dev id x v := by
  unfold State.sharedWrite
  split
  · omega
  · omega
  · rfl

theorem sharedWritesPerform : Claims.sharedWritesPerform := by
  intro w v x s hm c there
  refine ⟨fun hc => ⟨⟨_, exec_csr_result hm _ _, s.onlyDev_modDev .., fun i hi => ?_, ?_, fun k hk => ?_⟩,
    ⟨_, exec_csr_result hm _ _, s.onlyDev_modDev .., ?_, ?_, fun k hk => ?_⟩⟩, fun hx => ?_⟩
  · rw [State.sharedWrite, State.ctx_modCtx _ _ _ _ hc, if_pos rfl]
    exact getLsbD_cleared _ _ hi
  · rw [State.sharedWrite, State.ctx_modCtx _ _ _ _ hc, if_pos rfl]
  · rw [State.sharedWrite, State.ctx_modCtx _ _ _ _ hc, if_neg hk]
  · rw [State.sharedWrite, State.ctx_modCtx _ _ _ _ hc, if_pos rfl]
  · rw [State.sharedWrite, State.ctx_modCtx _ _ _ _ hc, if_pos rfl]
  · rw [State.sharedWrite, State.ctx_modCtx _ _ _ _ hc, if_neg hk]
  · rw [exec_csr_result hm, State.sharedWrite_control s w.id v hx]

/-! ## Writes of the control view (R327): the device -/

theorem Device.expertWrite_enabled {x : Device} (h : x.xen.getLsbD 0 = true) (f : Device → Device) : x.expertWrite f = f x := by
  rw [Device.expertWrite, Device.expert, h, if_pos rfl]

theorem Device.expertWrite_refused {x : Device} (h : x.xen.getLsbD 0 = false) (f : Device → Device) :
    x.expertWrite f = { x with xen := x.xen ||| 2 } := by
  rw [Device.expertWrite, Device.expert, h, if_neg Bool.false_ne_true]

theorem getLsbD_two (b : Nat) : (2 : BitVec 2).getLsbD b = (b == 1) := by
  match b with
  | 0 | 1 => rfl
  | b + 2 => simp

/-- What an expert write leaves, as its change and a note in XEN leave it. -/
theorem Device.expertWrite_keeps {α : Type} {x : Device} {f : Device → Device} (q : Device → α) (hf : q (f x) = q x)
    (hx : q { x with xen := x.xen ||| 2 } = q x) : q (x.expertWrite f) = q x := by
  unfold Device.expertWrite
  split
  · exact hf
  · exact hx

/-- The registers of a device that a control write can change, at their values in another device. -/
def Device.controlAs (x y : Device) : Device :=
  { x with xen := y.xen, ctxsel := y.ctxsel, coresel := y.coresel, rasmark := y.rasmark, rasleak := y.rasleak,
           raswt := y.raswt, spctl := y.spctl, spbase := y.spbase, spsize := y.spsize, sprd := y.sprd,
           spmark := y.spmark, pwrcap := y.pwrcap }

/-- A write of the control view changes nothing of a device but its registers. -/
theorem Device.controlWrite_frame (x : Device) (idx : Nat) (v : Reg) : (x.controlWrite idx v).controlAs x = x := by
  unfold Device.controlWrite
  split
  · rfl
  · rfl
  · rfl
  · rfl
  · refine Device.expertWrite_keeps (·.controlAs x) ?_ rfl
    split <;> rfl
  · exact Device.expertWrite_keeps (·.controlAs x) rfl rfl
  · exact Device.expertWrite_keeps (x := { x with spctl := _ }) (·.controlAs x) rfl rfl
  · rfl
  · split <;> rfl
  · rfl
  · rfl
  · exact Device.expertWrite_keeps (·.controlAs x) rfl rfl
  · rfl

/-! ## Writes of the control view: an entry for the core -/

theorem any_put {κ α : Type} [DecidableEq κ] (k k' : κ) (v : α) (t : Assoc κ α) :
    (put k v t).any (fun x => x.1 == k') = (k == k' || t.any (fun x => x.1 == k')) := by
  induction t with
  | nil => simp [put]
  | cons x r ih =>
    by_cases h : x.1 = k
    · by_cases hk : k = k' <;> simp [put, h, hk]
    · simp only [put, if_neg h, List.any_cons, ih, Bool.or_left_comm]

theorem look_of_not_any {κ α : Type} [DecidableEq κ] {d : α} {k : κ} {t : Assoc κ α}
    (h : t.any (fun x => x.1 == k) = false) : look d k t = d := by
  induction t with
  | nil => rfl
  | cons x r ih =>
    simp only [List.any_cons, Bool.or_eq_false_iff, beq_eq_false_iff_ne] at h
    rw [look, if_neg h.1, ih h.2]

/-- An unlisted core stands as at reset. -/
theorem State.coreAt_unlisted {s : State} {id : CoreId} (h : s.isListed id = false) : s.coreAt id = Core.fresh :=
  look_of_not_any h

theorem State.isListed_setCore (s : State) (id : CoreId) (c : Core) (k : CoreId) :
    (s.setCore id c).isListed k = (id == k || s.isListed k) := any_put ..

theorem State.listed_of_isListed {s : State} {id : CoreId} (h : s.isListed id = true) : s.listed id = s := by
  simp [State.listed, h]

theorem State.listed_of_not {s : State} {id : CoreId} (h : s.isListed id = false) :
    s.listed id = s.setCore id { Core.fresh with
      counters := s.countersOf id, shadows := s.shadowsOf id, before := (s.countersOf id, s.shadowsOf id) } := by
  simp [State.listed, h]

theorem State.isListed_listed (s : State) (id : CoreId) : (s.listed id).isListed id = true := by
  cases h : s.isListed id with
  | false => simp [State.listed_of_not h, State.isListed_setCore]
  | true => rw [State.listed_of_isListed h, h]

@[simp] theorem State.listed_devs (s : State) (id : CoreId) : (s.listed id).devs = s.devs := by
  unfold State.listed
  split <;> rfl

@[simp] theorem State.listed_runs (s : State) (id : CoreId) : (s.listed id).runs = s.runs := by
  unfold State.listed
  split <;> rfl

@[simp] theorem State.listed_host (s : State) (id : CoreId) : (s.listed id).host = s.host := by
  unfold State.listed
  split <;> rfl

@[simp] theorem State.listed_pool (s : State) (id : CoreId) : (s.listed id).pool = s.pool := by
  unfold State.listed
  split <;> rfl

/-- What a control write can change of a core, its watchpoints and where its counters are kept, at its value in another core. -/
def Core.controlAs (c k : Core) : Core :=
  { c with watches := k.watches, counters := k.counters, shadows := k.shadows, before := k.before }

/-- An entry of its own gives a core no other register than its counters. -/
theorem State.coreAt_listed (s : State) (id k : CoreId) : ((s.listed id).coreAt k).controlAs (s.coreAt k) = s.coreAt k := by
  cases h : s.isListed id with
  | false =>
    rw [State.listed_of_not h, State.coreAt_setCore]
    split
    · subst k
      rw [State.coreAt_unlisted h]; rfl
    · rfl
  | true => rw [State.listed_of_isListed h]; rfl

theorem State.coreAt_listed_ne (s : State) {id k : CoreId} (hk : k ≠ id) : (s.listed id).coreAt k = s.coreAt k := by
  cases h : s.isListed id with
  | false => rw [State.listed_of_not h, State.coreAt_setCore, if_neg hk]
  | true => rw [State.listed_of_isListed h]

/-- The counters and the shadows of every core read in t as in s (R321, R324). -/
structure State.SameCounts (s t : State) : Prop where
  counters : ∀ k, t.countersOf k = s.countersOf k
  shadows : ∀ k, t.shadowsOf k = s.shadowsOf k

theorem State.SameCounts.trans {s t u : State} (h : s.SameCounts t) (k : t.SameCounts u) : s.SameCounts u :=
  ⟨fun i => (k.counters i).trans (h.counters i), fun i => (k.shadows i).trans (h.shadows i)⟩

/-- Counters are read from cores, the count, and the ticks that the group and a device were held. -/
theorem State.SameCounts.of_cores {s t : State} (hc : t.cores = s.cores) (hn : t.now = s.now) (hg : t.groupHeld = s.groupHeld)
    (hs : t.groupShadow = s.groupShadow)
    (hd : ∀ k, (t.dev k).selfHeld = (s.dev k).selfHeld ∧ (t.dev k).selfShadow = (s.dev k).selfShadow) : s.SameCounts t := by
  have listed (k : CoreId) : t.isListed k = s.isListed k := by rw [State.isListed, State.isListed, hc]
  constructor <;> intro k
  · simp only [State.countersOf, listed, State.coreAt_congr hc, hn, hg, (hd k.dev).1]
  · simp only [State.shadowsOf, listed, State.coreAt_congr hc, hs, (hd k.dev).2]

/-- A core set to one that holds the counters and the shadows at which it stands. -/
theorem State.SameCounts.setCore {s : State} {id : CoreId} {c : Core} (hc : c.counters = s.countersOf id)
    (hs : c.shadows = s.shadowsOf id) : s.SameCounts (s.setCore id c) := by
  constructor <;> intro k <;> by_cases hk : k = id
  · subst k; simp [State.countersOf, State.isListed_setCore, hc]
  · simp [State.countersOf, State.isListed_setCore, hk, Ne.symm hk]
  · subst k; simp [State.shadowsOf, State.isListed_setCore, hs]
  · simp [State.shadowsOf, State.isListed_setCore, hk, Ne.symm hk]

/-- An entry of its own keeps the counters and the shadows of a core. -/
theorem State.SameCounts.listed (s : State) (id : CoreId) : s.SameCounts (s.listed id) := by
  cases h : s.isListed id with
  | false => rw [State.listed_of_not h]; exact .setCore rfl rfl
  | true => rw [State.listed_of_isListed h]; exact ⟨fun _ => rfl, fun _ => rfl⟩

/-! ## Writes of the control view: what each leaves and changes -/

theorem Core.controlWrite_base (c : Core) (v : Reg) {i : Nat} (h : i < 4) :
    (vget ⟨0, 0⟩ (c.controlWrite (0x4040 + 2 * i) v).watches i).base = v &&& ~~~0x3F#64 := by
  have range : 0x4040 ≤ 0x4040 + 2 * i ∧ 0x4040 + 2 * i < 0x4048 := by omega
  have watch : (0x4040 + 2 * i - 0x4040) / 2 = i := by omega
  have even : (0x4040 + 2 * i) % 2 = 0 := by omega
  simp only [Core.controlWrite, if_pos range, watch, if_pos even, vget_vset_same _ _ _ _ h]

theorem Core.controlWrite_ctl (c : Core) (v : Reg) {i : Nat} (h : i < 4) :
    (vget ⟨0, 0⟩ (c.controlWrite (0x4041 + 2 * i) v).watches i).ctl = v &&& 0xFFFFFF1F := by
  have range : 0x4040 ≤ 0x4041 + 2 * i ∧ 0x4041 + 2 * i < 0x4048 := by omega
  have watch : (0x4041 + 2 * i - 0x4040) / 2 = i := by omega
  have odd : ¬ (0x4041 + 2 * i) % 2 = 0 := by omega
  simp only [Core.controlWrite, if_pos range, watch, if_neg odd, vget_vset_same _ _ _ _ h]

/-- A write of the control view changes nothing of a core but its watchpoints. -/
theorem Core.controlWrite_frame (c : Core) (idx : Nat) (v : Reg) (k : Core) :
    (c.controlWrite idx v).controlAs k = c.controlAs k := by
  unfold Core.controlWrite Core.controlAs
  split <;> rfl

theorem Core.controlWrite_counters (c : Core) (idx : Nat) (v : Reg) : (c.controlWrite idx v).counters = c.counters := by
  unfold Core.controlWrite
  split <;> rfl

theorem Core.controlWrite_shadows (c : Core) (idx : Nat) (v : Reg) : (c.controlWrite idx v).shadows = c.shadows := by
  unfold Core.controlWrite
  split <;> rfl

/-- The indices of the control view with an effect beyond their register: PARTSET, RELEASE and STOPC. -/
abbrev actsOn (idx : Nat) : Prop := idx = 0x4004 ∨ idx = 0x4017 ∨ idx = 0x4050

section Control

variable (s : State) (d : Nat) (id : CoreId) {idx : Nat} (v : Reg) (hi : ¬ actsOn idx)

/-- The device and the selected context as a write of the control view leaves them, before the core is written. -/
def State.deviceWritten (s : State) (d : Nat) (idx : Nat) (v : Reg) : State :=
  (s.modDev d (fun x => x.controlWrite idx v)).modCtx d ((s.dev d).ctxsel.toNat % 16) (fun x => x.controlWrite idx v)

/-- What no register and no context of a device holds stands on every device. -/
theorem State.deviceWritten_keeps {α : Type} (q : Device → α) (hq : ∀ x c, q { x with ctxs := c } = q x)
    (hw : q ((s.dev d).controlWrite idx v) = q (s.dev d)) (k : Nat) : q ((s.deviceWritten d idx v).dev k) = q (s.dev k) := by
  rw [State.deviceWritten, State.modCtx, State.dev_modDev]
  by_cases hk : k = d
  · rw [if_pos hk, hq, State.dev_modDev, if_pos rfl, hw, hk]
  · rw [if_neg hk, State.dev_modDev, if_neg hk]

include hi

/-- A write without a further effect: the device, the selected context, and the core. -/
theorem State.controlWrite_eq : s.controlWrite d id idx v =
    (((s.deviceWritten d idx v).listed id).modCore id (fun c => c.controlWrite idx v)).losslessSoon d := by
  unfold State.controlWrite
  split
  · exact absurd (.inl rfl) hi
  · exact absurd (.inr (.inl rfl)) hi
  · exact absurd (.inr (.inr rfl)) hi
  · rfl

theorem State.devs_controlWrite : (s.controlWrite d id idx v).devs = (s.deviceWritten d idx v).devs := by
  rw [s.controlWrite_eq d id v hi]; simp

/-- A register that does not lie in a context is the device's own. -/
theorem State.register_controlWrite {α : Type} (q : Device → α) (hq : ∀ x c, q { x with ctxs := c } = q x) :
    q ((s.controlWrite d id idx v).dev d) = q ((s.dev d).controlWrite idx v) := by
  rw [State.dev_congr (s.devs_controlWrite d id v hi), State.deviceWritten, State.modCtx, State.dev_modDev, if_pos rfl, hq,
    State.dev_modDev, if_pos rfl]

/-- The selected context takes the write. -/
theorem State.ctx_controlWrite : (s.controlWrite d id idx v).ctx d ((s.dev d).ctxsel.toNat % 16) =
    (s.ctx d ((s.dev d).ctxsel.toNat % 16)).controlWrite idx v := by
  have frame : ((s.dev d).controlWrite idx v).ctxs = (s.dev d).ctxs :=
    (congrArg Device.ctxs ((s.dev d).controlWrite_frame idx v) :)
  have selected : (s.dev d).ctxsel.toNat % 16 < 16 := Nat.mod_lt _ (by decide)
  have device : (s.modDev d (fun x => x.controlWrite idx v)).ctx d ((s.dev d).ctxsel.toNat % 16) =
      s.ctx d ((s.dev d).ctxsel.toNat % 16) := by
    rw [State.ctx, State.dev_modDev, if_pos rfl, frame]; rfl
  rw [← device, State.ctx, State.dev_congr (s.devs_controlWrite d id v hi)]
  exact (State.ctx_modCtx _ d _ _ selected).trans (if_pos rfl)

/-- The core takes the write, from an entry of its own on. -/
theorem State.coreAt_controlWrite (k : CoreId) : (s.controlWrite d id idx v).coreAt k =
    if k = id then (((s.deviceWritten d idx v).listed id).coreAt id).controlWrite idx v
    else ((s.deviceWritten d idx v).listed id).coreAt k := by
  rw [s.controlWrite_eq d id v hi, State.coreAt_congr (State.losslessSoon_cores ..), State.coreAt_modCore]

theorem State.coreAt_controlWrite_ne {k : CoreId} (hk : k ≠ id) : (s.controlWrite d id idx v).coreAt k = s.coreAt k := by
  rw [s.coreAt_controlWrite d id v hi, if_neg hk, State.coreAt_listed_ne _ hk]; rfl

/-- No register of a core changes but its watchpoints and, with an entry of its own, where its counters are kept. -/
theorem State.coreAt_controlWrite_frame (k : CoreId) :
    ((s.controlWrite d id idx v).coreAt k).controlAs (s.coreAt k) = s.coreAt k := by
  by_cases hk : k = id
  · subst k
    rw [s.coreAt_controlWrite d id v hi, if_pos rfl, Core.controlWrite_frame]
    exact (s.deviceWritten d idx v).coreAt_listed id id
  · rw [s.coreAt_controlWrite_ne d id v hi hk]; rfl

/-- Every byte reads as before. -/
theorem State.sameBytes_controlWrite : s.sameBytes (s.controlWrite d id idx v) := by
  have frame := s.coreAt_controlWrite_frame d id v hi
  refine ⟨fun k x => ⟨(congrArg (fun c : Core => readByte c.sp x) (frame k) :),
    (congrArg (fun c : Core => readByte c.loft x) (frame k) :)⟩, fun k x => ?_, fun pool c x => ?_⟩
  · have hbm := s.deviceWritten_keeps d v Device.hbm (fun _ _ => rfl)
      (congrArg Device.hbm ((s.dev d).controlWrite_frame idx v) :) k
    rw [State.dev_congr (s.devs_controlWrite d id v hi), hbm]
  · rw [s.controlWrite_eq d id v hi, State.far, State.far, State.losslessSoon_host, State.losslessSoon_pool]
    simp [State.deviceWritten]

theorem State.runs_controlWrite : (s.controlWrite d id idx v).runs = s.runs := by
  rw [s.controlWrite_eq d id v hi]
  simp [State.deviceWritten]

/-- The counters and shadows of every core read as before. -/
theorem State.sameCounts_controlWrite : s.SameCounts (s.controlWrite d id idx v) := by
  have device : s.SameCounts (s.deviceWritten d idx v) := by
    have frame := (s.dev d).controlWrite_frame idx v
    exact .of_cores rfl rfl rfl rfl (fun k =>
      ⟨s.deviceWritten_keeps d v Device.selfHeld (fun _ _ => rfl) (congrArg Device.selfHeld frame :) k,
        s.deviceWritten_keeps d v Device.selfShadow (fun _ _ => rfl) (congrArg Device.selfShadow frame :) k⟩)
  have listed := State.isListed_listed (s.deviceWritten d idx v) id
  have core : ((s.deviceWritten d idx v).listed id).SameCounts
      (((s.deviceWritten d idx v).listed id).modCore id (fun c => c.controlWrite idx v)) :=
    .setCore (by rw [State.countersOf, if_pos listed, Core.controlWrite_counters])
      (by rw [State.shadowsOf, if_pos listed, Core.controlWrite_shadows])
  rw [s.controlWrite_eq d id v hi]
  refine ((device.trans (.listed ..)).trans core).trans (.of_cores (by simp) (by simp) (by simp) (by simp) (fun k => ?_))
  rw [State.dev_congr (State.losslessSoon_devs ..)]
  exact ⟨rfl, rfl⟩

/-- An expert field takes its value under expert enable, and without it the write is noted in XEN (R327). -/
theorem State.expert_controlWrite {α : Type} (q : Device → α) (f : Device → Device)
    (hw : (s.dev d).controlWrite idx v = (s.dev d).expertWrite f) (hf : (f (s.dev d)).xen = (s.dev d).xen)
    (hq : ∀ x c, q { x with ctxs := c } = q x) (hx : ∀ x n, q { x with xen := n } = q x) :
    ((s.dev d).xen.getLsbD 0 = true → q ((s.controlWrite d id idx v).dev d) = q (f (s.dev d)) ∧
      ((s.controlWrite d id idx v).dev d).xen = (s.dev d).xen) ∧
    ((s.dev d).xen.getLsbD 0 = false → q ((s.controlWrite d id idx v).dev d) = q (s.dev d) ∧
      ∀ b, ((s.controlWrite d id idx v).dev d).xen.getLsbD b = ((s.dev d).xen.getLsbD b || b == 1)) := by
  rw [s.register_controlWrite d id v hi q hq, s.register_controlWrite d id v hi Device.xen (fun _ _ => rfl), hw]
  refine ⟨fun h => ?_, fun h => ?_⟩
  · rw [Device.expertWrite_enabled h]
    exact ⟨rfl, hf⟩
  · rw [Device.expertWrite_refused h]
    exact ⟨hx .., fun b => by rw [BitVec.getLsbD_or, getLsbD_two]⟩

end Control

/-! ## Writes of the control view: the registers -/

/-- A write of XEN sets EXPERT and clears REFUSED where it writes 1. -/
theorem Device.controlWrite_xen (x : Device) (v : Reg) :
    (x.controlWrite 0x4002 v).xen.getLsbD 0 = v.getLsbD 0 ∧
      (x.controlWrite 0x4002 v).xen.getLsbD 1 = (x.xen.getLsbD 1 && !v.getLsbD 1) := by
  have xen : (x.controlWrite 0x4002 v).xen =
      setBits (setBits x.xen 0 1 v.toNat) 1 1 (x.xen.getLsbD 1 && !v.getLsbD 1).toNat := rfl
  rw [xen]
  constructor
  · rw [getLsbD_setBits, getLsbD_setBits]
    simp [BitVec.getLsbD]
  · rw [getLsbD_setBits]
    cases x.xen.getLsbD 1 <;> cases v.getLsbD 1 <;> rfl

theorem controlWrites : Claims.controlWrites := by
  intro d id x v s cx wrote
  have plain {α : Type} (q : Device → α) (hq : ∀ x c, q { x with ctxs := c } = q x) (i : Nat) (hi : ¬ actsOn i) :
      q ((wrote i).dev d) = q ((s.dev d).controlWrite i v) := s.register_controlWrite d id v hi q hq
  have context (i : Nat) (hi : ¬ actsOn i) : (wrote i).ctx d cx = (s.ctx d cx).controlWrite i v :=
    s.ctx_controlWrite d id v hi
  refine ⟨rfl, ?_, ?_, ?_, ?_, ?_, ⟨rfl, rfl, rfl⟩, ?_⟩
  · simp only [List.mem_cons, List.not_mem_nil, or_false, forall_eq_or_imp, forall_eq]
    refine ⟨?_, ?_, ?_, ?_, ?_, ?_⟩
    · exact plain Device.ctxsel (fun _ _ => rfl) _ (by decide)
    · exact plain Device.coresel (fun _ _ => rfl) _ (by decide)
    · exact plain Device.rasmark (fun _ _ => rfl) _ (by decide)
    · exact plain Device.spbase (fun _ _ => rfl) _ (by decide)
    · exact plain Device.sprd (fun _ _ => rfl) _ (by decide)
    · exact plain Device.spmark (fun _ _ => rfl) _ (by decide)
  · simp only [List.mem_cons, List.not_mem_nil, or_false, forall_eq_or_imp, forall_eq]
    refine ⟨?_, ?_, ?_, ?_, ?_, ?_, ?_⟩
    · exact congrArg Ctx.hostWin (context _ (by decide))
    · exact congrArg Ctx.poolWin (context _ (by decide))
    · exact congrArg Ctx.dlHost (context _ (by decide))
    · exact congrArg Ctx.dlPool (context _ (by decide))
    · exact congrArg Ctx.saveArea (context _ (by decide))
    · exact congrArg Ctx.faultArea (context _ (by decide))
    · exact congrArg Ctx.brken (context _ (by decide))
  · simp only [List.mem_cons, List.not_mem_nil, or_false, forall_eq_or_imp, forall_eq]
    refine ⟨?_, ?_, ?_⟩
    · have refused := s.expert_controlWrite d id v (idx := 0x4021) (by decide) Device.rasleak _ rfl
        (by split <;> rfl) (fun _ _ => rfl) (fun _ _ => rfl)
      rwa [apply_ite Device.rasleak] at refused
    · exact s.expert_controlWrite d id v (idx := 0x4022) (by decide) Device.raswt
        (fun y => { y with raswt := v &&& 0xFFFFFF }) rfl rfl (fun _ _ => rfl) (fun _ _ => rfl)
    · exact s.expert_controlWrite d id v (idx := 0x4070) (by decide) Device.pwrcap
        (fun y => { y with pwrcap := v }) rfl rfl (fun _ _ => rfl) (fun _ _ => rfl)
  · rw [plain Device.xen (fun _ _ => rfl) 0x4002 (by decide)]
    exact (s.dev d).controlWrite_xen v
  · intro i hi
    have base : ¬ actsOn (0x4040 + 2 * i) := by omega
    have ctl : ¬ actsOn (0x4041 + 2 * i) := by omega
    rw [s.coreAt_controlWrite d id v base, s.coreAt_controlWrite d id v ctl, if_pos rfl, if_pos rfl]
    exact ⟨Core.controlWrite_base _ v hi, Core.controlWrite_ctl _ v hi⟩
  · intro hp hr hs
    have hi : ¬ actsOn x := by omega
    obtain ⟨counters, shadows⟩ := s.sameCounts_controlWrite d id v hi
    exact ⟨s.sameBytes_controlWrite d id v hi, s.runs_controlWrite d id v hi,
      fun k => ⟨s.coreAt_controlWrite_frame d id v hi k, counters k, shadows k⟩,
      fun k hk => s.coreAt_controlWrite_ne d id v hi hk⟩

/-- Settles O55: csrr and lstat write s[d] alone, csrw writes its core's register or puts the write in flight, and a write of
the control view is one of the device, of the selected context and of the core, which keeps every byte and register else. -/
theorem csrWords : Obligations.CsrWords := ⟨statusReads, csrWrites, sharedWritesPerform, controlWrites⟩

end Sys2Proof.Machine
end
